-- ==== Sys2Proof/Word.lean ====
section
/-! DEFINITION. The word and the byte (00 R11, R14). Everything a test could show wrong about bits stands in
Sys2Proof/Machine/Bits.lean. -/

namespace Sys2Proof

/-- A 32-bit word: a register, an address, an instruction (10 R21). -/
abbrev Word := BitVec 32

/-- A byte of memory (20 R120). -/
abbrev Byte := BitVec 8

end Sys2Proof
end

