-- ==== Sys2Proof/Syntax.lean ====
section
/-! DEFINITION. The instructions of the CW4011: one constructor per row of spec/opcode_table.json (R253), in the
table's order. Operands are the fields of the row; a field the decoder ignores (R249) is no operand, but for bits
[10:0] of the coprocessor moves, which the coprocessor receives with the whole word (R440) and which are kept. -/

namespace Sys2Proof

/-- An instruction (R253). Each constructor's comment gives its assembly syntax and its rule. -/
inductive Instr where
  -- LOAD AND STORE, file 40 of spec/
  /-- `LB rt, offset(base)` (R271). -/
  | lb (base : BitVec 5) (rt : BitVec 5) (offset : BitVec 16)
  /-- `LH rt, offset(base)` (R273). -/
  | lh (base : BitVec 5) (rt : BitVec 5) (offset : BitVec 16)
  /-- `LWL rt, offset(base)` (R276). -/
  | lwl (base : BitVec 5) (rt : BitVec 5) (offset : BitVec 16)
  /-- `LW rt, offset(base)` (R275). -/
  | lw (base : BitVec 5) (rt : BitVec 5) (offset : BitVec 16)
  /-- `LBU rt, offset(base)` (R272). -/
  | lbu (base : BitVec 5) (rt : BitVec 5) (offset : BitVec 16)
  /-- `LHU rt, offset(base)` (R274). -/
  | lhu (base : BitVec 5) (rt : BitVec 5) (offset : BitVec 16)
  /-- `LWR rt, offset(base)` (R277). -/
  | lwr (base : BitVec 5) (rt : BitVec 5) (offset : BitVec 16)
  /-- `SB rt, offset(base)` (R278). -/
  | sb (base : BitVec 5) (rt : BitVec 5) (offset : BitVec 16)
  /-- `SH rt, offset(base)` (R279). -/
  | sh (base : BitVec 5) (rt : BitVec 5) (offset : BitVec 16)
  /-- `SWL rt, offset(base)` (R281). -/
  | swl (base : BitVec 5) (rt : BitVec 5) (offset : BitVec 16)
  /-- `SW rt, offset(base)` (R280). -/
  | sw (base : BitVec 5) (rt : BitVec 5) (offset : BitVec 16)
  /-- `SWR rt, offset(base)` (R282). -/
  | swr (base : BitVec 5) (rt : BitVec 5) (offset : BitVec 16)
  /-- `LL rt, offset(base)` (R283). -/
  | ll (base : BitVec 5) (rt : BitVec 5) (offset : BitVec 16)
  /-- `SC rt, offset(base)` (R284). -/
  | sc (base : BitVec 5) (rt : BitVec 5) (offset : BitVec 16)
  /-- `SYNC` (R285). -/
  | sync
  -- COMPUTATIONAL, file 41
  /-- `ADDI rt, rs, immediate` (R301). -/
  | addi (rs : BitVec 5) (rt : BitVec 5) (imm : BitVec 16)
  /-- `ADDIU rt, rs, immediate` (R302). -/
  | addiu (rs : BitVec 5) (rt : BitVec 5) (imm : BitVec 16)
  /-- `SLTI rt, rs, immediate` (R303). -/
  | slti (rs : BitVec 5) (rt : BitVec 5) (imm : BitVec 16)
  /-- `SLTIU rt, rs, immediate` (R304). -/
  | sltiu (rs : BitVec 5) (rt : BitVec 5) (imm : BitVec 16)
  /-- `ANDI rt, rs, immediate` (R305). -/
  | andi (rs : BitVec 5) (rt : BitVec 5) (imm : BitVec 16)
  /-- `ORI rt, rs, immediate` (R306). -/
  | ori (rs : BitVec 5) (rt : BitVec 5) (imm : BitVec 16)
  /-- `XORI rt, rs, immediate` (R307). -/
  | xori (rs : BitVec 5) (rt : BitVec 5) (imm : BitVec 16)
  /-- `LUI rt, immediate` (R308). -/
  | lui (rt : BitVec 5) (imm : BitVec 16)
  /-- `ADD rd, rs, rt` (R310). -/
  | add (rs : BitVec 5) (rt : BitVec 5) (rd : BitVec 5)
  /-- `ADDU rd, rs, rt` (R311). -/
  | addu (rs : BitVec 5) (rt : BitVec 5) (rd : BitVec 5)
  /-- `SUB rd, rs, rt` (R312). -/
  | sub (rs : BitVec 5) (rt : BitVec 5) (rd : BitVec 5)
  /-- `SUBU rd, rs, rt` (R313). -/
  | subu (rs : BitVec 5) (rt : BitVec 5) (rd : BitVec 5)
  /-- `SLT rd, rs, rt` (R314). -/
  | slt (rs : BitVec 5) (rt : BitVec 5) (rd : BitVec 5)
  /-- `SLTU rd, rs, rt` (R315). -/
  | sltu (rs : BitVec 5) (rt : BitVec 5) (rd : BitVec 5)
  /-- `AND rd, rs, rt` (R316). -/
  | and (rs : BitVec 5) (rt : BitVec 5) (rd : BitVec 5)
  /-- `OR rd, rs, rt` (R317). -/
  | or (rs : BitVec 5) (rt : BitVec 5) (rd : BitVec 5)
  /-- `XOR rd, rs, rt` (R318). -/
  | xor (rs : BitVec 5) (rt : BitVec 5) (rd : BitVec 5)
  /-- `NOR rd, rs, rt` (R319). -/
  | nor (rs : BitVec 5) (rt : BitVec 5) (rd : BitVec 5)
  /-- `SLL rd, rt, shamt` (R320). -/
  | sll (rt : BitVec 5) (rd : BitVec 5) (shamt : BitVec 5)
  /-- `SRL rd, rt, shamt` (R321). -/
  | srl (rt : BitVec 5) (rd : BitVec 5) (shamt : BitVec 5)
  /-- `SRA rd, rt, shamt` (R322). -/
  | sra (rt : BitVec 5) (rd : BitVec 5) (shamt : BitVec 5)
  /-- `SLLV rd, rt, rs` (R323). -/
  | sllv (rs : BitVec 5) (rt : BitVec 5) (rd : BitVec 5)
  /-- `SRLV rd, rt, rs` (R324). -/
  | srlv (rs : BitVec 5) (rt : BitVec 5) (rd : BitVec 5)
  /-- `SRAV rd, rt, rs` (R325). -/
  | srav (rs : BitVec 5) (rt : BitVec 5) (rd : BitVec 5)
  /-- `MULT rs, rt` (R331). -/
  | mult (rs : BitVec 5) (rt : BitVec 5)
  /-- `MULTU rs, rt` (R332). -/
  | multu (rs : BitVec 5) (rt : BitVec 5)
  /-- `DIV rs, rt` (R333). -/
  | div (rs : BitVec 5) (rt : BitVec 5)
  /-- `DIVU rs, rt` (R334). -/
  | divu (rs : BitVec 5) (rt : BitVec 5)
  /-- `MFHI rd` (R335). -/
  | mfhi (rd : BitVec 5)
  /-- `MFLO rd` (R336). -/
  | mflo (rd : BitVec 5)
  /-- `MTHI rs` (R337). -/
  | mthi (rs : BitVec 5)
  /-- `MTLO rs` (R338). -/
  | mtlo (rs : BitVec 5)
  -- COMPUTATIONAL EXTENSIONS, file 42
  /-- `ADDCIU rt, rs, immediate` (R351). -/
  | addciu (rs : BitVec 5) (rt : BitVec 5) (imm : BitVec 16)
  /-- `FFS rd, rs` (R352). -/
  | ffs (rs : BitVec 5) (rd : BitVec 5)
  /-- `FFC rd, rs` (R353). -/
  | ffc (rs : BitVec 5) (rd : BitVec 5)
  /-- `MIN rd, rs, rt` (R354). -/
  | min (rs : BitVec 5) (rt : BitVec 5) (rd : BitVec 5)
  /-- `MAX rd, rs, rt` (R355). -/
  | max (rs : BitVec 5) (rt : BitVec 5) (rd : BitVec 5)
  /-- `SELSR rd, rs, rt` (R356). -/
  | selsr (rs : BitVec 5) (rt : BitVec 5) (rd : BitVec 5)
  /-- `SELSL rd, rs, rt` (R357). -/
  | selsl (rs : BitVec 5) (rt : BitVec 5) (rd : BitVec 5)
  /-- `MADD rs, rt` (R358). -/
  | madd (rs : BitVec 5) (rt : BitVec 5)
  /-- `MADDU rs, rt` (R359). -/
  | maddu (rs : BitVec 5) (rt : BitVec 5)
  /-- `MSUB rs, rt` (R360). -/
  | msub (rs : BitVec 5) (rt : BitVec 5)
  /-- `MSUBU rs, rt` (R361). -/
  | msubu (rs : BitVec 5) (rt : BitVec 5)
  -- JUMP AND BRANCH, file 43
  /-- `J target` (R375). -/
  | j (target : BitVec 26)
  /-- `JAL target` (R376). -/
  | jal (target : BitVec 26)
  /-- `JR rs` (R377). -/
  | jr (rs : BitVec 5)
  /-- `JALR rs, rd` (R378). -/
  | jalr (rs : BitVec 5) (rd : BitVec 5)
  /-- `BEQ rs, rt, offset` (R380). -/
  | beq (rs : BitVec 5) (rt : BitVec 5) (offset : BitVec 16)
  /-- `BNE rs, rt, offset` (R381). -/
  | bne (rs : BitVec 5) (rt : BitVec 5) (offset : BitVec 16)
  /-- `BEQL rs, rt, offset` (R390). -/
  | beql (rs : BitVec 5) (rt : BitVec 5) (offset : BitVec 16)
  /-- `BNEL rs, rt, offset` (R391). -/
  | bnel (rs : BitVec 5) (rt : BitVec 5) (offset : BitVec 16)
  /-- `BLEZ rs, offset` (R382). -/
  | blez (rs : BitVec 5) (offset : BitVec 16)
  /-- `BGTZ rs, offset` (R383). -/
  | bgtz (rs : BitVec 5) (offset : BitVec 16)
  /-- `BLEZL rs, offset` (R392). -/
  | blezl (rs : BitVec 5) (offset : BitVec 16)
  /-- `BGTZL rs, offset` (R393). -/
  | bgtzl (rs : BitVec 5) (offset : BitVec 16)
  /-- `BLTZ rs, offset` (R384). -/
  | bltz (rs : BitVec 5) (offset : BitVec 16)
  /-- `BGEZ rs, offset` (R385). -/
  | bgez (rs : BitVec 5) (offset : BitVec 16)
  /-- `BLTZL rs, offset` (R394). -/
  | bltzl (rs : BitVec 5) (offset : BitVec 16)
  /-- `BGEZL rs, offset` (R395). -/
  | bgezl (rs : BitVec 5) (offset : BitVec 16)
  /-- `BLTZAL rs, offset` (R386). -/
  | bltzal (rs : BitVec 5) (offset : BitVec 16)
  /-- `BGEZAL rs, offset` (R387). -/
  | bgezal (rs : BitVec 5) (offset : BitVec 16)
  /-- `BLTZALL rs, offset` (R396). -/
  | bltzall (rs : BitVec 5) (offset : BitVec 16)
  /-- `BGEZALL rs, offset` (R397). -/
  | bgezall (rs : BitVec 5) (offset : BitVec 16)
  -- TRAP AND SPECIAL, file 44
  /-- `TGE rs, rt` (R411). -/
  | tge (rs : BitVec 5) (rt : BitVec 5)
  /-- `TGEU rs, rt` (R412). -/
  | tgeu (rs : BitVec 5) (rt : BitVec 5)
  /-- `TLT rs, rt` (R413). -/
  | tlt (rs : BitVec 5) (rt : BitVec 5)
  /-- `TLTU rs, rt` (R414). -/
  | tltu (rs : BitVec 5) (rt : BitVec 5)
  /-- `TEQ rs, rt` (R415). -/
  | teq (rs : BitVec 5) (rt : BitVec 5)
  /-- `TNE rs, rt` (R416). -/
  | tne (rs : BitVec 5) (rt : BitVec 5)
  /-- `TGEI rs, immediate` (R417). -/
  | tgei (rs : BitVec 5) (imm : BitVec 16)
  /-- `TGEIU rs, immediate` (R418). -/
  | tgeiu (rs : BitVec 5) (imm : BitVec 16)
  /-- `TLTI rs, immediate` (R419). -/
  | tlti (rs : BitVec 5) (imm : BitVec 16)
  /-- `TLTIU rs, immediate` (R420). -/
  | tltiu (rs : BitVec 5) (imm : BitVec 16)
  /-- `TEQI rs, immediate` (R421). -/
  | teqi (rs : BitVec 5) (imm : BitVec 16)
  /-- `TNEI rs, immediate` (R422). -/
  | tnei (rs : BitVec 5) (imm : BitVec 16)
  /-- `SYSCALL` (R425). -/
  | syscall (code : BitVec 20)
  /-- `BREAK` (R426). -/
  | brk (code : BitVec 20)
  -- COPROCESSOR, file 45
  /-- `LWC1 rt, offset(base)` (R442). -/
  | lwc1 (base : BitVec 5) (rt : BitVec 5) (offset : BitVec 16)
  /-- `SWC1 rt, offset(base)` (R443). -/
  | swc1 (base : BitVec 5) (rt : BitVec 5) (offset : BitVec 16)
  /-- `MTC1 rt, rd` (R444). -/
  | mtc1 (rt : BitVec 5) (rd : BitVec 5) (low : BitVec 11)
  /-- `MFC1 rt, rd` (R445). -/
  | mfc1 (rt : BitVec 5) (rd : BitVec 5) (low : BitVec 11)
  /-- `CTC1 rt, rd` (R446). -/
  | ctc1 (rt : BitVec 5) (rd : BitVec 5) (low : BitVec 11)
  /-- `CFC1 rt, rd` (R447). -/
  | cfc1 (rt : BitVec 5) (rd : BitVec 5) (low : BitVec 11)
  /-- `COP1 cofun` (R448). -/
  | cop1 (cofun : BitVec 25)
  /-- `LWC2 rt, offset(base)` (R442). -/
  | lwc2 (base : BitVec 5) (rt : BitVec 5) (offset : BitVec 16)
  /-- `SWC2 rt, offset(base)` (R443). -/
  | swc2 (base : BitVec 5) (rt : BitVec 5) (offset : BitVec 16)
  /-- `MTC2 rt, rd` (R444). -/
  | mtc2 (rt : BitVec 5) (rd : BitVec 5) (low : BitVec 11)
  /-- `MFC2 rt, rd` (R445). -/
  | mfc2 (rt : BitVec 5) (rd : BitVec 5) (low : BitVec 11)
  /-- `CTC2 rt, rd` (R446). -/
  | ctc2 (rt : BitVec 5) (rd : BitVec 5) (low : BitVec 11)
  /-- `CFC2 rt, rd` (R447). -/
  | cfc2 (rt : BitVec 5) (rd : BitVec 5) (low : BitVec 11)
  /-- `COP2 cofun` (R448). -/
  | cop2 (cofun : BitVec 25)
  /-- `LWC3 rt, offset(base)` (R442). -/
  | lwc3 (base : BitVec 5) (rt : BitVec 5) (offset : BitVec 16)
  /-- `SWC3 rt, offset(base)` (R443). -/
  | swc3 (base : BitVec 5) (rt : BitVec 5) (offset : BitVec 16)
  /-- `MTC3 rt, rd` (R444). -/
  | mtc3 (rt : BitVec 5) (rd : BitVec 5) (low : BitVec 11)
  /-- `MFC3 rt, rd` (R445). -/
  | mfc3 (rt : BitVec 5) (rd : BitVec 5) (low : BitVec 11)
  /-- `CTC3 rt, rd` (R446). -/
  | ctc3 (rt : BitVec 5) (rd : BitVec 5) (low : BitVec 11)
  /-- `CFC3 rt, rd` (R447). -/
  | cfc3 (rt : BitVec 5) (rd : BitVec 5) (low : BitVec 11)
  /-- `COP3 cofun` (R448). -/
  | cop3 (cofun : BitVec 25)
  /-- `BC0F offset` (R449). -/
  | bc0f (offset : BitVec 16)
  /-- `BC0T offset` (R450). -/
  | bc0t (offset : BitVec 16)
  /-- `BC0FL offset` (R451). -/
  | bc0fl (offset : BitVec 16)
  /-- `BC0TL offset` (R452). -/
  | bc0tl (offset : BitVec 16)
  /-- `BC1F offset` (R449). -/
  | bc1f (offset : BitVec 16)
  /-- `BC1T offset` (R450). -/
  | bc1t (offset : BitVec 16)
  /-- `BC1FL offset` (R451). -/
  | bc1fl (offset : BitVec 16)
  /-- `BC1TL offset` (R452). -/
  | bc1tl (offset : BitVec 16)
  /-- `BC2F offset` (R449). -/
  | bc2f (offset : BitVec 16)
  /-- `BC2T offset` (R450). -/
  | bc2t (offset : BitVec 16)
  /-- `BC2FL offset` (R451). -/
  | bc2fl (offset : BitVec 16)
  /-- `BC2TL offset` (R452). -/
  | bc2tl (offset : BitVec 16)
  /-- `BC3F offset` (R449). -/
  | bc3f (offset : BitVec 16)
  /-- `BC3T offset` (R450). -/
  | bc3t (offset : BitVec 16)
  /-- `BC3FL offset` (R451). -/
  | bc3fl (offset : BitVec 16)
  /-- `BC3TL offset` (R452). -/
  | bc3tl (offset : BitVec 16)
  -- SYSTEM CONTROL COPROCESSOR, file 46
  /-- `MTC0 rt, rd` (R462). -/
  | mtc0 (rt : BitVec 5) (rd : BitVec 5)
  /-- `MFC0 rt, rd` (R461). -/
  | mfc0 (rt : BitVec 5) (rd : BitVec 5)
  /-- `TLBR` (R463). -/
  | tlbr
  /-- `TLBWI` (R464). -/
  | tlbwi
  /-- `TLBWR` (R465). -/
  | tlbwr
  /-- `TLBP` (R466). -/
  | tlbp
  /-- `RFE` (R467). -/
  | rfe
  /-- `ERET` (R468). -/
  | eret
  /-- `WAITI` (R469). -/
  | waiti
  -- CACHE MAINTENANCE, file 47
  /-- `FLUSHI` (R481). -/
  | flushi
  /-- `FLUSHD` (R482). -/
  | flushd
  /-- `FLUSHID` (R483). -/
  | flushid
  /-- `WB offset(base)` (R484). -/
  | wb (base : BitVec 5) (offset : BitVec 16)
  deriving DecidableEq, Repr

end Sys2Proof
end

