-- ==== Sys2Proof/WellFormed.lean ====
section
/-! DEFINITION. What an instruction must satisfy to be written by an assembler (30 R249), and what the spec asks of a
program text about neighbouring instructions (43 R371, R401, 70 R621). The machine does not use the program checks: it
gives every word its meaning or refuses it where it executes. -/

namespace Sys2Proof

/-- The unused bits [10:0] of a coprocessor move, zero for every other instruction (R249, R444). -/
def Instr.unusedBits : Instr → BitVec 11
  | .mtc1 _ _ low | .mfc1 _ _ low | .ctc1 _ _ low | .cfc1 _ _ low => low
  | .mtc2 _ _ low | .mfc2 _ _ low | .ctc2 _ _ low | .cfc2 _ _ low => low
  | .mtc3 _ _ low | .mfc3 _ _ low | .ctc3 _ _ low | .cfc3 _ _ low => low
  | _ => 0

/-- Assemblers write zero in every unused field (R249). -/
def Instr.wellFormed (i : Instr) : Bool := i.unusedBits == 0

/-- `NOP` is `SLL r0, r0, 0` (R251). -/
def Instr.nop : Instr := .sll 0 0 0

/-- A Branch Likely (R373, R451, R452). -/
def Instr.isLikely : Instr → Bool
  | .beql .. | .bnel .. | .blezl .. | .bgtzl .. | .bltzl .. | .bgezl .. | .bltzall .. | .bgezall .. => true
  | .bc0fl _ | .bc0tl _ | .bc1fl _ | .bc1tl _ | .bc2fl _ | .bc2tl _ | .bc3fl _ | .bc3tl _ => true
  | _ => false

/-- A jump or a branch, the coprocessor branches among them (R370, R401). -/
def Instr.isTransfer : Instr → Bool
  | .j _ | .jal _ | .jr _ | .jalr .. => true
  | .beq .. | .bne .. | .blez .. | .bgtz .. | .bltz .. | .bgez .. | .bltzal .. | .bgezal .. => true
  | .bc0f _ | .bc0t _ | .bc1f _ | .bc1t _ | .bc2f _ | .bc2t _ | .bc3f _ | .bc3t _ => true
  | i => i.isLikely

/-- A jump through a register, in whose slot RFE may stand (R401). -/
def Instr.isJumpRegister : Instr → Bool
  | .jr _ | .jalr .. => true
  | _ => false

/-- A trap instruction (R410). -/
def Instr.isTrap : Instr → Bool
  | .tge .. | .tgeu .. | .tlt .. | .tltu .. | .teq .. | .tne .. => true
  | .tgei .. | .tgeiu .. | .tlti .. | .tltiu .. | .teqi .. | .tnei .. => true
  | _ => false

/-- A load or a store (R133). -/
def Instr.isMemory : Instr → Bool
  | .lb .. | .lbu .. | .lh .. | .lhu .. | .lw .. | .lwl .. | .lwr .. | .ll .. => true
  | .sb .. | .sh .. | .sw .. | .swl .. | .swr .. | .sc .. => true
  | .lwc1 .. | .lwc2 .. | .lwc3 .. | .swc1 .. | .swc2 .. | .swc3 .. => true
  | _ => false

/-- The multiply/divide instructions that write HI or LO (R503). -/
def Instr.writesHiLo : Instr → Bool
  | .mult .. | .multu .. | .div .. | .divu .. | .madd .. | .maddu .. | .msub .. | .msubu .. | .mthi _ | .mtlo _ => true
  | _ => false

/-- What may stand in the delay slot of `b` (R371, R401): no jump, branch, ERET or trap; RFE only after JR or JALR. -/
def slotAllowed (b i : Instr) : Bool :=
  !i.isTransfer && !i.isTrap && i != .eret && (i != .rfe || b.isJumpRegister)

/-- With the caches isolated, a Branch Likely's slot holds no load or store (R371, 70 R636). -/
def isolatedSlotAllowed (b i : Instr) : Bool := !(b.isLikely && i.isMemory)

/-- How many NOPs must follow (70 R633, R634): three after a cache instruction, two after WAITI. -/
def Instr.nopsAfter : Instr → Nat
  | .flushi | .flushd | .flushid | .wb .. => 3
  | .waiti => 2
  | _ => 0

/-- Whether the text after an instruction begins with the NOPs it needs. -/
def nopsFollow (i : Instr) (rest : List Instr) : Bool :=
  i.nopsAfter ≤ rest.length && (rest.take i.nopsAfter).all (· == Instr.nop)

/-- The straight-line checks of a program text: every instruction well formed, every slot allowed, every NOP there. -/
def textWellFormed : List Instr → Bool
  | [] => true
  | i :: rest =>
    i.wellFormed && nopsFollow i rest &&
      (!i.isTransfer || match rest with
        | [] => false
        | s :: _ => slotAllowed i s) && textWellFormed rest

end Sys2Proof
end

