-- ==== Sys2Proof/Decode.lean ====
section
/-! DEFINITION. Decoding (30, R225 to R249) and, after it, the encoder (R253). Decoding is total: every 32-bit word is
an instruction, a reserved word, or one of the silent words the spec describes; a byte string that is no instruction
of the table is rejected by name. -/

namespace Sys2Proof

namespace InstrField

/-- `op`, bits [31:26] (R221). -/
def op (w : Word) : BitVec 6 := w.extractLsb' 26 6
/-- `rs`, also `base` and the COPz sub-opcode, bits [25:21] (R221). -/
def rs (w : Word) : BitVec 5 := w.extractLsb' 21 5
/-- `rt`, bits [20:16] (R221). -/
def rt (w : Word) : BitVec 5 := w.extractLsb' 16 5
/-- `rd`, bits [15:11] (R221). -/
def rd (w : Word) : BitVec 5 := w.extractLsb' 11 5
/-- `shamt`, bits [10:6] (R221). -/
def shamt (w : Word) : BitVec 5 := w.extractLsb' 6 5
/-- `funct`, bits [5:0] (R221, 90 C14). -/
def funct (w : Word) : BitVec 6 := w.extractLsb' 0 6
/-- `immediate` or `offset`, bits [15:0] (R221). -/
def imm (w : Word) : BitVec 16 := w.extractLsb' 0 16
/-- `target`, bits [25:0] (R221). -/
def target (w : Word) : BitVec 26 := w.extractLsb' 0 26
/-- `code` of SYSCALL and BREAK, bits [25:6] (R221). -/
def code (w : Word) : BitVec 20 := w.extractLsb' 6 20
/-- `cofun` of COPz, bits [24:0] (R448). -/
def cofun (w : Word) : BitVec 25 := w.extractLsb' 0 25
/-- Bits [10:0], which the coprocessor moves do not use (R444). -/
def low (w : Word) : BitVec 11 := w.extractLsb' 0 11
/-- Bit 25, the COPz function bit (R225). -/
def isCofun (w : Word) : Bool := w.getLsbD 25

end InstrField

/-- What a 32-bit word is (R225: every word decodes to exactly one of these). -/
inductive Decoded where
  /-- An instruction of the opcode table. -/
  | instr (i : Instr)
  /-- A word that raises RI (R246). -/
  | reserved
  /-- A reserved COPz sub-opcode: CpU if coprocessor `z` is not usable, else RI (R453). -/
  | copReserved (z : BitVec 2)
  /-- A CP0 function code of no instruction: no operation after the usability check (R248). -/
  | cp0Silent
  /-- CFC0: writes an unspecified value (46 R460). -/
  | cfc0 (rt : BitVec 5)
  /-- CTC0: no effect (46 R460). -/
  | ctc0
  /-- A CACHE word that is a no operation after its usability check (47 R485). -/
  | cacheSilent
  /-- CACHE 00101 to 00111: a no operation or WB (47 R485). -/
  | cacheAlias (base : BitVec 5) (offset : BitVec 16)
  deriving DecidableEq, Repr

open InstrField

/-- SPECIAL, by `funct` (R231). -/
def decodeSpecial (w : Word) : Decoded :=
  match funct w with
  | 0x00#6 => .instr (.sll (rt w) (rd w) (shamt w))
  | 0x01#6 => .instr (.selsr (rs w) (rt w) (rd w))
  | 0x02#6 => .instr (.srl (rt w) (rd w) (shamt w))
  | 0x03#6 => .instr (.sra (rt w) (rd w) (shamt w))
  | 0x04#6 => .instr (.sllv (rs w) (rt w) (rd w))
  | 0x05#6 => .instr (.selsl (rs w) (rt w) (rd w))
  | 0x06#6 => .instr (.srlv (rs w) (rt w) (rd w))
  | 0x07#6 => .instr (.srav (rs w) (rt w) (rd w))
  | 0x08#6 => .instr (.jr (rs w))
  | 0x09#6 => .instr (.jalr (rs w) (rd w))
  | 0x0A#6 => .instr (.ffs (rs w) (rd w))
  | 0x0B#6 => .instr (.ffc (rs w) (rd w))
  | 0x0C#6 => .instr (.syscall (code w))
  | 0x0D#6 => .instr (.brk (code w))
  | 0x0F#6 => .instr (.sync)
  | 0x10#6 => .instr (.mfhi (rd w))
  | 0x11#6 => .instr (.mthi (rs w))
  | 0x12#6 => .instr (.mflo (rd w))
  | 0x13#6 => .instr (.mtlo (rs w))
  | 0x18#6 => .instr (.mult (rs w) (rt w))
  | 0x19#6 => .instr (.multu (rs w) (rt w))
  | 0x1A#6 => .instr (.div (rs w) (rt w))
  | 0x1B#6 => .instr (.divu (rs w) (rt w))
  | 0x1C#6 => .instr (.madd (rs w) (rt w))
  | 0x1D#6 => .instr (.maddu (rs w) (rt w))
  | 0x1E#6 => .instr (.msub (rs w) (rt w))
  | 0x1F#6 => .instr (.msubu (rs w) (rt w))
  | 0x20#6 => .instr (.add (rs w) (rt w) (rd w))
  | 0x21#6 => .instr (.addu (rs w) (rt w) (rd w))
  | 0x22#6 => .instr (.sub (rs w) (rt w) (rd w))
  | 0x23#6 => .instr (.subu (rs w) (rt w) (rd w))
  | 0x24#6 => .instr (.and (rs w) (rt w) (rd w))
  | 0x25#6 => .instr (.or (rs w) (rt w) (rd w))
  | 0x26#6 => .instr (.xor (rs w) (rt w) (rd w))
  | 0x27#6 => .instr (.nor (rs w) (rt w) (rd w))
  | 0x28#6 => .instr (.min (rs w) (rt w) (rd w))
  | 0x29#6 => .instr (.max (rs w) (rt w) (rd w))
  | 0x2A#6 => .instr (.slt (rs w) (rt w) (rd w))
  | 0x2B#6 => .instr (.sltu (rs w) (rt w) (rd w))
  | 0x30#6 => .instr (.tge (rs w) (rt w))
  | 0x31#6 => .instr (.tgeu (rs w) (rt w))
  | 0x32#6 => .instr (.tlt (rs w) (rt w))
  | 0x33#6 => .instr (.tltu (rs w) (rt w))
  | 0x34#6 => .instr (.teq (rs w) (rt w))
  | 0x36#6 => .instr (.tne (rs w) (rt w))
  | _ => .reserved

/-- REGIMM, by `rt` (R232). -/
def decodeRegimm (w : Word) : Decoded :=
  match rt w with
  | 0x00#5 => .instr (.bltz (rs w) (imm w))
  | 0x01#5 => .instr (.bgez (rs w) (imm w))
  | 0x02#5 => .instr (.bltzl (rs w) (imm w))
  | 0x03#5 => .instr (.bgezl (rs w) (imm w))
  | 0x08#5 => .instr (.tgei (rs w) (imm w))
  | 0x09#5 => .instr (.tgeiu (rs w) (imm w))
  | 0x0A#5 => .instr (.tlti (rs w) (imm w))
  | 0x0B#5 => .instr (.tltiu (rs w) (imm w))
  | 0x0C#5 => .instr (.teqi (rs w) (imm w))
  | 0x0E#5 => .instr (.tnei (rs w) (imm w))
  | 0x10#5 => .instr (.bltzal (rs w) (imm w))
  | 0x11#5 => .instr (.bgezal (rs w) (imm w))
  | 0x12#5 => .instr (.bltzall (rs w) (imm w))
  | 0x13#5 => .instr (.bgezall (rs w) (imm w))
  | _ => .reserved

/-- The branches of coprocessor 0, by `rt` (R234). -/
def decodeBc0 (w : Word) : Decoded :=
  match rt w with
  | 0x00#5 => .instr (.bc0f (imm w))
  | 0x01#5 => .instr (.bc0t (imm w))
  | 0x02#5 => .instr (.bc0fl (imm w))
  | 0x03#5 => .instr (.bc0tl (imm w))
  | _ => .copReserved 0

/-- The branches of coprocessor 1, by `rt` (R234). -/
def decodeBc1 (w : Word) : Decoded :=
  match rt w with
  | 0x00#5 => .instr (.bc1f (imm w))
  | 0x01#5 => .instr (.bc1t (imm w))
  | 0x02#5 => .instr (.bc1fl (imm w))
  | 0x03#5 => .instr (.bc1tl (imm w))
  | _ => .copReserved 1

/-- The branches of coprocessor 2, by `rt` (R234). -/
def decodeBc2 (w : Word) : Decoded :=
  match rt w with
  | 0x00#5 => .instr (.bc2f (imm w))
  | 0x01#5 => .instr (.bc2t (imm w))
  | 0x02#5 => .instr (.bc2fl (imm w))
  | 0x03#5 => .instr (.bc2tl (imm w))
  | _ => .copReserved 2

/-- The branches of coprocessor 3, by `rt` (R234). -/
def decodeBc3 (w : Word) : Decoded :=
  match rt w with
  | 0x00#5 => .instr (.bc3f (imm w))
  | 0x01#5 => .instr (.bc3t (imm w))
  | 0x02#5 => .instr (.bc3fl (imm w))
  | 0x03#5 => .instr (.bc3tl (imm w))
  | _ => .copReserved 3

/-- CP0 functions, by `funct` (R235, R248). -/
def decodeCp0Function (w : Word) : Decoded :=
  match funct w with
  | 0x01#6 => .instr (.tlbr)
  | 0x02#6 => .instr (.tlbwi)
  | 0x06#6 => .instr (.tlbwr)
  | 0x08#6 => .instr (.tlbp)
  | 0x10#6 => .instr (.rfe)
  | 0x18#6 => .instr (.eret)
  | 0x20#6 => .instr (.waiti)
  | _ => .cp0Silent

/-- COP0 with bit 25 clear, by `rs` (R233). -/
def decodeCop0Sub (w : Word) : Decoded :=
  match rs w with
  | 0x00#5 => .instr (.mfc0 (rt w) (rd w))
  | 0x02#5 => .cfc0 (rt w)
  | 0x04#5 => .instr (.mtc0 (rt w) (rd w))
  | 0x06#5 => .ctc0
  | 0x08#5 => decodeBc0 w
  | _ => .copReserved 0

/-- COP1 with bit 25 clear, by `rs` (R233). -/
def decodeCop1Sub (w : Word) : Decoded :=
  match rs w with
  | 0x00#5 => .instr (.mfc1 (rt w) (rd w) (low w))
  | 0x02#5 => .instr (.cfc1 (rt w) (rd w) (low w))
  | 0x04#5 => .instr (.mtc1 (rt w) (rd w) (low w))
  | 0x06#5 => .instr (.ctc1 (rt w) (rd w) (low w))
  | 0x08#5 => decodeBc1 w
  | _ => .copReserved 1

/-- COP2 with bit 25 clear, by `rs` (R233). -/
def decodeCop2Sub (w : Word) : Decoded :=
  match rs w with
  | 0x00#5 => .instr (.mfc2 (rt w) (rd w) (low w))
  | 0x02#5 => .instr (.cfc2 (rt w) (rd w) (low w))
  | 0x04#5 => .instr (.mtc2 (rt w) (rd w) (low w))
  | 0x06#5 => .instr (.ctc2 (rt w) (rd w) (low w))
  | 0x08#5 => decodeBc2 w
  | _ => .copReserved 2

/-- COP3 with bit 25 clear, by `rs` (R233). -/
def decodeCop3Sub (w : Word) : Decoded :=
  match rs w with
  | 0x00#5 => .instr (.mfc3 (rt w) (rd w) (low w))
  | 0x02#5 => .instr (.cfc3 (rt w) (rd w) (low w))
  | 0x04#5 => .instr (.mtc3 (rt w) (rd w) (low w))
  | 0x06#5 => .instr (.ctc3 (rt w) (rd w) (low w))
  | 0x08#5 => decodeBc3 w
  | _ => .copReserved 3

/-- CACHE, by `rt` (R236, 47 R485). -/
def decodeCache (w : Word) : Decoded :=
  match rt w with
  | 0x01#5 => .instr (.flushi)
  | 0x02#5 => .instr (.flushd)
  | 0x03#5 => .instr (.flushid)
  | 0x04#5 => .instr (.wb (rs w) (imm w))
  | 0x05#5 => .cacheAlias (rs w) (imm w)
  | 0x06#5 => .cacheAlias (rs w) (imm w)
  | 0x07#5 => .cacheAlias (rs w) (imm w)
  | _ => .cacheSilent

/-- The instruction a fetched word is (R225, R230). -/
def decode (w : Word) : Decoded :=
  match op w with
  | 0x00#6 => decodeSpecial w
  | 0x01#6 => decodeRegimm w
  | 0x02#6 => .instr (.j (target w))
  | 0x03#6 => .instr (.jal (target w))
  | 0x04#6 => .instr (.beq (rs w) (rt w) (imm w))
  | 0x05#6 => .instr (.bne (rs w) (rt w) (imm w))
  | 0x06#6 => .instr (.blez (rs w) (imm w))
  | 0x07#6 => .instr (.bgtz (rs w) (imm w))
  | 0x08#6 => .instr (.addi (rs w) (rt w) (imm w))
  | 0x09#6 => .instr (.addiu (rs w) (rt w) (imm w))
  | 0x0A#6 => .instr (.slti (rs w) (rt w) (imm w))
  | 0x0B#6 => .instr (.sltiu (rs w) (rt w) (imm w))
  | 0x0C#6 => .instr (.andi (rs w) (rt w) (imm w))
  | 0x0D#6 => .instr (.ori (rs w) (rt w) (imm w))
  | 0x0E#6 => .instr (.xori (rs w) (rt w) (imm w))
  | 0x0F#6 => .instr (.lui (rt w) (imm w))
  | 0x10#6 => if isCofun w then decodeCp0Function w else decodeCop0Sub w
  | 0x11#6 => if isCofun w then .instr (.cop1 (cofun w)) else decodeCop1Sub w
  | 0x12#6 => if isCofun w then .instr (.cop2 (cofun w)) else decodeCop2Sub w
  | 0x13#6 => if isCofun w then .instr (.cop3 (cofun w)) else decodeCop3Sub w
  | 0x14#6 => .instr (.beql (rs w) (rt w) (imm w))
  | 0x15#6 => .instr (.bnel (rs w) (rt w) (imm w))
  | 0x16#6 => .instr (.blezl (rs w) (imm w))
  | 0x17#6 => .instr (.bgtzl (rs w) (imm w))
  | 0x1C#6 => .instr (.addciu (rs w) (rt w) (imm w))
  | 0x20#6 => .instr (.lb (rs w) (rt w) (imm w))
  | 0x21#6 => .instr (.lh (rs w) (rt w) (imm w))
  | 0x22#6 => .instr (.lwl (rs w) (rt w) (imm w))
  | 0x23#6 => .instr (.lw (rs w) (rt w) (imm w))
  | 0x24#6 => .instr (.lbu (rs w) (rt w) (imm w))
  | 0x25#6 => .instr (.lhu (rs w) (rt w) (imm w))
  | 0x26#6 => .instr (.lwr (rs w) (rt w) (imm w))
  | 0x28#6 => .instr (.sb (rs w) (rt w) (imm w))
  | 0x29#6 => .instr (.sh (rs w) (rt w) (imm w))
  | 0x2A#6 => .instr (.swl (rs w) (rt w) (imm w))
  | 0x2B#6 => .instr (.sw (rs w) (rt w) (imm w))
  | 0x2E#6 => .instr (.swr (rs w) (rt w) (imm w))
  | 0x2F#6 => decodeCache w
  | 0x30#6 => .instr (.ll (rs w) (rt w) (imm w))
  | 0x31#6 => .instr (.lwc1 (rs w) (rt w) (imm w))
  | 0x32#6 => .instr (.lwc2 (rs w) (rt w) (imm w))
  | 0x33#6 => .instr (.lwc3 (rs w) (rt w) (imm w))
  | 0x38#6 => .instr (.sc (rs w) (rt w) (imm w))
  | 0x39#6 => .instr (.swc1 (rs w) (rt w) (imm w))
  | 0x3A#6 => .instr (.swc2 (rs w) (rt w) (imm w))
  | 0x3B#6 => .instr (.swc3 (rs w) (rt w) (imm w))
  | _ => .reserved

/-- Why a byte string is no instruction of the table; the machine itself never rejects, it executes `Decoded`. -/
inductive Reject where
  /-- Fewer than four bytes are left (R220). -/
  | truncated
  /-- The word raises a Reserved Instruction or Coprocessor Unusable exception (R246, R453). -/
  | reserved (w : Word)
  /-- The word is invalid but silent, or CFC0 or CTC0 (R248, 46 R460). -/
  | silent (w : Word)
  deriving DecidableEq, Repr

/-- The word of four bytes in address order, under the byte order `bigEndian` (20 R131, R130). -/
def wordOfBytes (bigEndian : Bool) (b0 b1 b2 b3 : Byte) : Word :=
  if bigEndian then b0 ++ b1 ++ b2 ++ b3 else b3 ++ b2 ++ b1 ++ b0

/-- The four bytes of a word in address order (20 R131). -/
def bytesOfWord (bigEndian : Bool) (w : Word) : List Byte :=
  let b := [w.extractLsb' 0 8, w.extractLsb' 8 8, w.extractLsb' 16 8, w.extractLsb' 24 8]
  if bigEndian then b.reverse else b

/-- The first instruction of a byte string and the bytes after it (R220). -/
def decodeBytes (bigEndian : Bool) : List Byte → Except Reject (Instr × List Byte)
  | b0 :: b1 :: b2 :: b3 :: rest =>
    let w := wordOfBytes bigEndian b0 b1 b2 b3
    match decode w with
    | .instr i => .ok (i, rest)
    | .reserved => .error (.reserved w)
    | .copReserved _ => .error (.reserved w)
    | .cp0Silent => .error (.silent w)
    | .cfc0 _ => .error (.silent w)
    | .ctc0 => .error (.silent w)
    | .cacheSilent => .error (.silent w)
    | .cacheAlias _ _ => .error (.silent w)
  | _ => .error .truncated

/-- The instruction the decoder reads from a word of the opcode table's numbering, laid out as a little-endian core
stores it (the strap's default, 20 R130). -/
def decodeTableWord (nbits w : Nat) : Option Instr :=
  match decodeBytes false (bytesOfWord false (BitVec.ofNat 32 (w % 2 ^ nbits))) with
  | .ok (i, _) => some i
  | .error _ => none

/-! ### The encoder (R221, R253); unused fields are written as zero (R249) -/

/-- An I-type word (R221). -/
def iWord (op : BitVec 6) (rs rt : BitVec 5) (imm : BitVec 16) : Word := op ++ rs ++ rt ++ imm
/-- A J-type word (R221). -/
def jWord (op : BitVec 6) (target : BitVec 26) : Word := op ++ target
/-- An R-type word (R221). -/
def rWord (op : BitVec 6) (rs rt rd sh : BitVec 5) (fn : BitVec 6) : Word := op ++ rs ++ rt ++ rd ++ sh ++ fn
/-- A word with a 20-bit code (R231). -/
def codeWord (op : BitVec 6) (code : BitVec 20) (fn : BitVec 6) : Word := op ++ code ++ fn
/-- A coprocessor move (R444). -/
def moveWord (op : BitVec 6) (sub rt rd : BitVec 5) (low : BitVec 11) : Word := op ++ sub ++ rt ++ rd ++ low
/-- A coprocessor operation: bit 25 is 1 (R448). -/
def cofunWord (op : BitVec 6) (cofun : BitVec 25) : Word := op ++ (1 : BitVec 1) ++ cofun

/-- The word of an instruction (R253). -/
def encode : Instr → Word
  | .lb base rt offset => iWord 0x20 base rt offset
  | .lh base rt offset => iWord 0x21 base rt offset
  | .lwl base rt offset => iWord 0x22 base rt offset
  | .lw base rt offset => iWord 0x23 base rt offset
  | .lbu base rt offset => iWord 0x24 base rt offset
  | .lhu base rt offset => iWord 0x25 base rt offset
  | .lwr base rt offset => iWord 0x26 base rt offset
  | .sb base rt offset => iWord 0x28 base rt offset
  | .sh base rt offset => iWord 0x29 base rt offset
  | .swl base rt offset => iWord 0x2A base rt offset
  | .sw base rt offset => iWord 0x2B base rt offset
  | .swr base rt offset => iWord 0x2E base rt offset
  | .ll base rt offset => iWord 0x30 base rt offset
  | .sc base rt offset => iWord 0x38 base rt offset
  | .sync => rWord 0x0 0x0 0x0 0x0 0x0 0xF
  | .addi rs rt imm => iWord 0x8 rs rt imm
  | .addiu rs rt imm => iWord 0x9 rs rt imm
  | .slti rs rt imm => iWord 0xA rs rt imm
  | .sltiu rs rt imm => iWord 0xB rs rt imm
  | .andi rs rt imm => iWord 0xC rs rt imm
  | .ori rs rt imm => iWord 0xD rs rt imm
  | .xori rs rt imm => iWord 0xE rs rt imm
  | .lui rt imm => iWord 0xF 0x0 rt imm
  | .add rs rt rd => rWord 0x0 rs rt rd 0x0 0x20
  | .addu rs rt rd => rWord 0x0 rs rt rd 0x0 0x21
  | .sub rs rt rd => rWord 0x0 rs rt rd 0x0 0x22
  | .subu rs rt rd => rWord 0x0 rs rt rd 0x0 0x23
  | .slt rs rt rd => rWord 0x0 rs rt rd 0x0 0x2A
  | .sltu rs rt rd => rWord 0x0 rs rt rd 0x0 0x2B
  | .and rs rt rd => rWord 0x0 rs rt rd 0x0 0x24
  | .or rs rt rd => rWord 0x0 rs rt rd 0x0 0x25
  | .xor rs rt rd => rWord 0x0 rs rt rd 0x0 0x26
  | .nor rs rt rd => rWord 0x0 rs rt rd 0x0 0x27
  | .sll rt rd shamt => rWord 0x0 0x0 rt rd shamt 0x0
  | .srl rt rd shamt => rWord 0x0 0x0 rt rd shamt 0x2
  | .sra rt rd shamt => rWord 0x0 0x0 rt rd shamt 0x3
  | .sllv rs rt rd => rWord 0x0 rs rt rd 0x0 0x4
  | .srlv rs rt rd => rWord 0x0 rs rt rd 0x0 0x6
  | .srav rs rt rd => rWord 0x0 rs rt rd 0x0 0x7
  | .mult rs rt => rWord 0x0 rs rt 0x0 0x0 0x18
  | .multu rs rt => rWord 0x0 rs rt 0x0 0x0 0x19
  | .div rs rt => rWord 0x0 rs rt 0x0 0x0 0x1A
  | .divu rs rt => rWord 0x0 rs rt 0x0 0x0 0x1B
  | .mfhi rd => rWord 0x0 0x0 0x0 rd 0x0 0x10
  | .mflo rd => rWord 0x0 0x0 0x0 rd 0x0 0x12
  | .mthi rs => rWord 0x0 rs 0x0 0x0 0x0 0x11
  | .mtlo rs => rWord 0x0 rs 0x0 0x0 0x0 0x13
  | .addciu rs rt imm => iWord 0x1C rs rt imm
  | .ffs rs rd => rWord 0x0 rs 0x0 rd 0x0 0xA
  | .ffc rs rd => rWord 0x0 rs 0x0 rd 0x0 0xB
  | .min rs rt rd => rWord 0x0 rs rt rd 0x0 0x28
  | .max rs rt rd => rWord 0x0 rs rt rd 0x0 0x29
  | .selsr rs rt rd => rWord 0x0 rs rt rd 0x0 0x1
  | .selsl rs rt rd => rWord 0x0 rs rt rd 0x0 0x5
  | .madd rs rt => rWord 0x0 rs rt 0x0 0x0 0x1C
  | .maddu rs rt => rWord 0x0 rs rt 0x0 0x0 0x1D
  | .msub rs rt => rWord 0x0 rs rt 0x0 0x0 0x1E
  | .msubu rs rt => rWord 0x0 rs rt 0x0 0x0 0x1F
  | .j target => jWord 0x2 target
  | .jal target => jWord 0x3 target
  | .jr rs => rWord 0x0 rs 0x0 0x0 0x0 0x8
  | .jalr rs rd => rWord 0x0 rs 0x0 rd 0x0 0x9
  | .beq rs rt offset => iWord 0x4 rs rt offset
  | .bne rs rt offset => iWord 0x5 rs rt offset
  | .beql rs rt offset => iWord 0x14 rs rt offset
  | .bnel rs rt offset => iWord 0x15 rs rt offset
  | .blez rs offset => iWord 0x6 rs 0x0 offset
  | .bgtz rs offset => iWord 0x7 rs 0x0 offset
  | .blezl rs offset => iWord 0x16 rs 0x0 offset
  | .bgtzl rs offset => iWord 0x17 rs 0x0 offset
  | .bltz rs offset => iWord 0x1 rs 0x0 offset
  | .bgez rs offset => iWord 0x1 rs 0x1 offset
  | .bltzl rs offset => iWord 0x1 rs 0x2 offset
  | .bgezl rs offset => iWord 0x1 rs 0x3 offset
  | .bltzal rs offset => iWord 0x1 rs 0x10 offset
  | .bgezal rs offset => iWord 0x1 rs 0x11 offset
  | .bltzall rs offset => iWord 0x1 rs 0x12 offset
  | .bgezall rs offset => iWord 0x1 rs 0x13 offset
  | .tge rs rt => rWord 0x0 rs rt 0x0 0x0 0x30
  | .tgeu rs rt => rWord 0x0 rs rt 0x0 0x0 0x31
  | .tlt rs rt => rWord 0x0 rs rt 0x0 0x0 0x32
  | .tltu rs rt => rWord 0x0 rs rt 0x0 0x0 0x33
  | .teq rs rt => rWord 0x0 rs rt 0x0 0x0 0x34
  | .tne rs rt => rWord 0x0 rs rt 0x0 0x0 0x36
  | .tgei rs imm => iWord 0x1 rs 0x8 imm
  | .tgeiu rs imm => iWord 0x1 rs 0x9 imm
  | .tlti rs imm => iWord 0x1 rs 0xA imm
  | .tltiu rs imm => iWord 0x1 rs 0xB imm
  | .teqi rs imm => iWord 0x1 rs 0xC imm
  | .tnei rs imm => iWord 0x1 rs 0xE imm
  | .syscall code => codeWord 0x0 code 0xC
  | .brk code => codeWord 0x0 code 0xD
  | .lwc1 base rt offset => iWord 0x31 base rt offset
  | .swc1 base rt offset => iWord 0x39 base rt offset
  | .mtc1 rt rd low => moveWord 0x11 0x4 rt rd low
  | .mfc1 rt rd low => moveWord 0x11 0x0 rt rd low
  | .ctc1 rt rd low => moveWord 0x11 0x6 rt rd low
  | .cfc1 rt rd low => moveWord 0x11 0x2 rt rd low
  | .cop1 cofun => cofunWord 0x11 cofun
  | .lwc2 base rt offset => iWord 0x32 base rt offset
  | .swc2 base rt offset => iWord 0x3A base rt offset
  | .mtc2 rt rd low => moveWord 0x12 0x4 rt rd low
  | .mfc2 rt rd low => moveWord 0x12 0x0 rt rd low
  | .ctc2 rt rd low => moveWord 0x12 0x6 rt rd low
  | .cfc2 rt rd low => moveWord 0x12 0x2 rt rd low
  | .cop2 cofun => cofunWord 0x12 cofun
  | .lwc3 base rt offset => iWord 0x33 base rt offset
  | .swc3 base rt offset => iWord 0x3B base rt offset
  | .mtc3 rt rd low => moveWord 0x13 0x4 rt rd low
  | .mfc3 rt rd low => moveWord 0x13 0x0 rt rd low
  | .ctc3 rt rd low => moveWord 0x13 0x6 rt rd low
  | .cfc3 rt rd low => moveWord 0x13 0x2 rt rd low
  | .cop3 cofun => cofunWord 0x13 cofun
  | .bc0f offset => iWord 0x10 0x8 0x0 offset
  | .bc0t offset => iWord 0x10 0x8 0x1 offset
  | .bc0fl offset => iWord 0x10 0x8 0x2 offset
  | .bc0tl offset => iWord 0x10 0x8 0x3 offset
  | .bc1f offset => iWord 0x11 0x8 0x0 offset
  | .bc1t offset => iWord 0x11 0x8 0x1 offset
  | .bc1fl offset => iWord 0x11 0x8 0x2 offset
  | .bc1tl offset => iWord 0x11 0x8 0x3 offset
  | .bc2f offset => iWord 0x12 0x8 0x0 offset
  | .bc2t offset => iWord 0x12 0x8 0x1 offset
  | .bc2fl offset => iWord 0x12 0x8 0x2 offset
  | .bc2tl offset => iWord 0x12 0x8 0x3 offset
  | .bc3f offset => iWord 0x13 0x8 0x0 offset
  | .bc3t offset => iWord 0x13 0x8 0x1 offset
  | .bc3fl offset => iWord 0x13 0x8 0x2 offset
  | .bc3tl offset => iWord 0x13 0x8 0x3 offset
  | .mtc0 rt rd => rWord 0x10 0x4 rt rd 0x0 0x0
  | .mfc0 rt rd => rWord 0x10 0x0 rt rd 0x0 0x0
  | .tlbr => rWord 0x10 0x10 0x0 0x0 0x0 0x1
  | .tlbwi => rWord 0x10 0x10 0x0 0x0 0x0 0x2
  | .tlbwr => rWord 0x10 0x10 0x0 0x0 0x0 0x6
  | .tlbp => rWord 0x10 0x10 0x0 0x0 0x0 0x8
  | .rfe => rWord 0x10 0x10 0x0 0x0 0x0 0x10
  | .eret => rWord 0x10 0x10 0x0 0x0 0x0 0x18
  | .waiti => rWord 0x10 0x10 0x0 0x0 0x0 0x20
  | .flushi => iWord 0x2F 0x0 0x1 0x0
  | .flushd => iWord 0x2F 0x0 0x2 0x0
  | .flushid => iWord 0x2F 0x0 0x3 0x0
  | .wb base offset => iWord 0x2F base 0x4 offset

/-! ### The rows of the opcode table (R253) -/

/-- The bits a row fixes. -/
def Instr.rowMask : Instr → Word
  | .lb .. | .lh .. | .lwl .. | .lw .. | .lbu .. | .lhu ..
  | .lwr .. | .sb .. | .sh .. | .swl .. | .sw .. | .swr ..
  | .ll .. | .sc .. => 0xFC000000
  | .sync => 0xFC00003F
  | .addi .. | .addiu .. | .slti .. | .sltiu .. | .andi .. | .ori ..
  | .xori .. | .lui .. => 0xFC000000
  | .add .. | .addu .. | .sub .. | .subu .. | .slt .. | .sltu ..
  | .and .. | .or .. | .xor .. | .nor .. | .sll .. | .srl ..
  | .sra .. | .sllv .. | .srlv .. | .srav .. | .mult .. | .multu ..
  | .div .. | .divu .. | .mfhi .. | .mflo .. | .mthi .. | .mtlo .. => 0xFC00003F
  | .addciu .. => 0xFC000000
  | .ffs .. | .ffc .. | .min .. | .max .. | .selsr .. | .selsl ..
  | .madd .. | .maddu .. | .msub .. | .msubu .. => 0xFC00003F
  | .j .. | .jal .. => 0xFC000000
  | .jr .. | .jalr .. => 0xFC00003F
  | .beq .. | .bne .. | .beql .. | .bnel .. | .blez .. | .bgtz ..
  | .blezl .. | .bgtzl .. => 0xFC000000
  | .bltz .. | .bgez .. | .bltzl .. | .bgezl .. | .bltzal .. | .bgezal ..
  | .bltzall .. | .bgezall .. => 0xFC1F0000
  | .tge .. | .tgeu .. | .tlt .. | .tltu .. | .teq .. | .tne .. => 0xFC00003F
  | .tgei .. | .tgeiu .. | .tlti .. | .tltiu .. | .teqi .. | .tnei .. => 0xFC1F0000
  | .syscall .. | .brk .. => 0xFC00003F
  | .lwc1 .. | .swc1 .. => 0xFC000000
  | .mtc1 .. | .mfc1 .. | .ctc1 .. | .cfc1 .. => 0xFFE00000
  | .cop1 .. => 0xFE000000
  | .lwc2 .. | .swc2 .. => 0xFC000000
  | .mtc2 .. | .mfc2 .. | .ctc2 .. | .cfc2 .. => 0xFFE00000
  | .cop2 .. => 0xFE000000
  | .lwc3 .. | .swc3 .. => 0xFC000000
  | .mtc3 .. | .mfc3 .. | .ctc3 .. | .cfc3 .. => 0xFFE00000
  | .cop3 .. => 0xFE000000
  | .bc0f .. | .bc0t .. | .bc0fl .. | .bc0tl .. | .bc1f .. | .bc1t ..
  | .bc1fl .. | .bc1tl .. | .bc2f .. | .bc2t .. | .bc2fl .. | .bc2tl ..
  | .bc3f .. | .bc3t .. | .bc3fl .. | .bc3tl .. => 0xFFFF0000
  | .mtc0 .. | .mfc0 .. => 0xFFE00000
  | .tlbr | .tlbwi | .tlbwr | .tlbp | .rfe | .eret
  | .waiti => 0xFE00003F
  | .flushi | .flushd | .flushid | .wb .. => 0xFC1F0000

/-- The value of the bits a row fixes. -/
def Instr.rowMatch : Instr → Word
  | .lb .. => 0x80000000
  | .lh .. => 0x84000000
  | .lwl .. => 0x88000000
  | .lw .. => 0x8C000000
  | .lbu .. => 0x90000000
  | .lhu .. => 0x94000000
  | .lwr .. => 0x98000000
  | .sb .. => 0xA0000000
  | .sh .. => 0xA4000000
  | .swl .. => 0xA8000000
  | .sw .. => 0xAC000000
  | .swr .. => 0xB8000000
  | .ll .. => 0xC0000000
  | .sc .. => 0xE0000000
  | .sync => 0x0000000F
  | .addi .. => 0x20000000
  | .addiu .. => 0x24000000
  | .slti .. => 0x28000000
  | .sltiu .. => 0x2C000000
  | .andi .. => 0x30000000
  | .ori .. => 0x34000000
  | .xori .. => 0x38000000
  | .lui .. => 0x3C000000
  | .add .. => 0x00000020
  | .addu .. => 0x00000021
  | .sub .. => 0x00000022
  | .subu .. => 0x00000023
  | .slt .. => 0x0000002A
  | .sltu .. => 0x0000002B
  | .and .. => 0x00000024
  | .or .. => 0x00000025
  | .xor .. => 0x00000026
  | .nor .. => 0x00000027
  | .sll .. => 0x00000000
  | .srl .. => 0x00000002
  | .sra .. => 0x00000003
  | .sllv .. => 0x00000004
  | .srlv .. => 0x00000006
  | .srav .. => 0x00000007
  | .mult .. => 0x00000018
  | .multu .. => 0x00000019
  | .div .. => 0x0000001A
  | .divu .. => 0x0000001B
  | .mfhi .. => 0x00000010
  | .mflo .. => 0x00000012
  | .mthi .. => 0x00000011
  | .mtlo .. => 0x00000013
  | .addciu .. => 0x70000000
  | .ffs .. => 0x0000000A
  | .ffc .. => 0x0000000B
  | .min .. => 0x00000028
  | .max .. => 0x00000029
  | .selsr .. => 0x00000001
  | .selsl .. => 0x00000005
  | .madd .. => 0x0000001C
  | .maddu .. => 0x0000001D
  | .msub .. => 0x0000001E
  | .msubu .. => 0x0000001F
  | .j .. => 0x08000000
  | .jal .. => 0x0C000000
  | .jr .. => 0x00000008
  | .jalr .. => 0x00000009
  | .beq .. => 0x10000000
  | .bne .. => 0x14000000
  | .beql .. => 0x50000000
  | .bnel .. => 0x54000000
  | .blez .. => 0x18000000
  | .bgtz .. => 0x1C000000
  | .blezl .. => 0x58000000
  | .bgtzl .. => 0x5C000000
  | .bltz .. => 0x04000000
  | .bgez .. => 0x04010000
  | .bltzl .. => 0x04020000
  | .bgezl .. => 0x04030000
  | .bltzal .. => 0x04100000
  | .bgezal .. => 0x04110000
  | .bltzall .. => 0x04120000
  | .bgezall .. => 0x04130000
  | .tge .. => 0x00000030
  | .tgeu .. => 0x00000031
  | .tlt .. => 0x00000032
  | .tltu .. => 0x00000033
  | .teq .. => 0x00000034
  | .tne .. => 0x00000036
  | .tgei .. => 0x04080000
  | .tgeiu .. => 0x04090000
  | .tlti .. => 0x040A0000
  | .tltiu .. => 0x040B0000
  | .teqi .. => 0x040C0000
  | .tnei .. => 0x040E0000
  | .syscall .. => 0x0000000C
  | .brk .. => 0x0000000D
  | .lwc1 .. => 0xC4000000
  | .swc1 .. => 0xE4000000
  | .mtc1 .. => 0x44800000
  | .mfc1 .. => 0x44000000
  | .ctc1 .. => 0x44C00000
  | .cfc1 .. => 0x44400000
  | .cop1 .. => 0x46000000
  | .lwc2 .. => 0xC8000000
  | .swc2 .. => 0xE8000000
  | .mtc2 .. => 0x48800000
  | .mfc2 .. => 0x48000000
  | .ctc2 .. => 0x48C00000
  | .cfc2 .. => 0x48400000
  | .cop2 .. => 0x4A000000
  | .lwc3 .. => 0xCC000000
  | .swc3 .. => 0xEC000000
  | .mtc3 .. => 0x4C800000
  | .mfc3 .. => 0x4C000000
  | .ctc3 .. => 0x4CC00000
  | .cfc3 .. => 0x4C400000
  | .cop3 .. => 0x4E000000
  | .bc0f .. => 0x41000000
  | .bc0t .. => 0x41010000
  | .bc0fl .. => 0x41020000
  | .bc0tl .. => 0x41030000
  | .bc1f .. => 0x45000000
  | .bc1t .. => 0x45010000
  | .bc1fl .. => 0x45020000
  | .bc1tl .. => 0x45030000
  | .bc2f .. => 0x49000000
  | .bc2t .. => 0x49010000
  | .bc2fl .. => 0x49020000
  | .bc2tl .. => 0x49030000
  | .bc3f .. => 0x4D000000
  | .bc3t .. => 0x4D010000
  | .bc3fl .. => 0x4D020000
  | .bc3tl .. => 0x4D030000
  | .mtc0 .. => 0x40800000
  | .mfc0 .. => 0x40000000
  | .tlbr => 0x42000001
  | .tlbwi => 0x42000002
  | .tlbwr => 0x42000006
  | .tlbp => 0x42000008
  | .rfe => 0x42000010
  | .eret => 0x42000018
  | .waiti => 0x42000020
  | .flushi => 0xBC010000
  | .flushd => 0xBC020000
  | .flushid => 0xBC030000
  | .wb .. => 0xBC040000

end Sys2Proof
end

