-- ==== Sys2Proof/Config.lean ====
section
/-! DEFINITION. The build and strap parameters of the core (00 R9), and the free values: constants with no body, for
every result the spec leaves undefined or unstated (93, section 1.1). -/

namespace Sys2Proof

/-- Where the ICEport receive interrupt goes (00 R9 `ICEPORT_INT_LINE`, 60 R571). -/
inductive IceportLine where
  /-- Not connected, the default. -/
  | none
  /-- Drives `EXiNTn[line]`; the values 6 and 7 name no line and drive nothing. -/
  | ext (line : BitVec 3)
  /-- Drives `NMin`. -/
  | nmi
  deriving DecidableEq, Repr

/-- The parameters of 00 R9, fixed for a run. They are data of State, so that a statement about every state is a
statement about every build. -/
structure Config where
  /-- `BIG_ENDIAN`: the strap BENDn is LOW (20 R130). -/
  bigEndian : Bool
  /-- `TLB_PRESENT`. -/
  tlbPresent : Bool
  /-- `TLBENTRIES - 1`, the upper bound of Random (10 R35). -/
  tlbLast : BitVec 5
  /-- `MDU_PRESENT`. -/
  mduPresent : Bool
  /-- `MAC_PRESENT`. -/
  macPresent : Bool
  /-- `ICACHE_PRESENT`. -/
  icachePresent : Bool
  /-- `DCACHE_PRESENT`. -/
  dcachePresent : Bool
  /-- The I-cache has a set 1 (10 R85: "zero, one or two sets"). -/
  icacheTwoWay : Bool
  /-- The D-cache has a set 1 (10 R86). -/
  dcacheTwoWay : Bool
  /-- The size code of the I-cache sets as built (93 section 1.3); `none` is a build that serves every size CCC.IS
  names. -/
  icacheSize : Option (BitVec 2)
  /-- The size code of the D-cache sets as built, likewise. -/
  dcacheSize : Option (BitVec 2)
  /-- pa[31:10] wired to the tag inputs of D-cache set 0 where its tag RAM is removed, for scratchpad use (20 R205).
  I-cache set 0, which is never a scratchpad, always has its tag RAM (log entry 37). -/
  dTag0 : Option (BitVec 22)
  /-- The same of D-cache set 1. -/
  dTag1 : Option (BitVec 22)
  /-- The same of I-cache set 1. -/
  iTag1 : Option (BitVec 22)
  /-- `CP_PRESENT[1]`. -/
  cp1Present : Bool
  /-- `CP_PRESENT[2]`. -/
  cp2Present : Bool
  /-- `CP_PRESENT[3]`. -/
  cp3Present : Bool
  /-- `ICEPORT_PRESENT`. -/
  iceportPresent : Bool
  /-- `ICEPORT_BASE` bits [31:4]; bits [3:0] are 0 (60 R570). -/
  iceportBase : BitVec 28
  /-- `ICEPORT_INT_LINE`. -/
  iceportLine : IceportLine
  /-- `PRID_LIMP`. -/
  pridLimp : BitVec 4
  /-- `PRID_UIMP`. -/
  pridUimp : BitVec 4
  /-- `PRID_LREV`. -/
  pridLrev : BitVec 4
  /-- `PRID_UREV`. -/
  pridUrev : BitVec 4
  /-- `BUS32`: no effect on any program-visible result (20 R133). -/
  bus32 : Bool
  deriving DecidableEq, Repr

/-- The parameters `State.reset` takes: the defaults of 00 R9 and 93 section 1.3 where they exist, and the premise of
95_test_vectors.md ("either" parameters built in, no external coprocessor). DESIGN CHOICE, log entry 1; unsafe. -/
def Config.default : Config where
  bigEndian := false
  tlbPresent := true
  tlbLast := 31
  mduPresent := true
  macPresent := true
  icachePresent := true
  dcachePresent := true
  icacheTwoWay := true
  dcacheTwoWay := true
  icacheSize := none
  dcacheSize := none
  dTag0 := none
  dTag1 := none
  iTag1 := none
  cp1Present := false
  cp2Present := false
  cp3Present := false
  iceportPresent := true
  iceportBase := 0x10FF000
  iceportLine := .none
  pridLimp := 0x4
  pridUimp := 0
  pridLrev := 0x1
  pridUrev := 0
  bus32 := false

/-- What a free value stands for: one name per value the spec leaves open (93 section 1.1). Log entry 7. -/
inductive Draw where
  /-- HI after a division the manual does not define (41 R333, R334). -/
  | divHi
  /-- LO after such a division. -/
  | divLo
  /-- MFC0 of a number that is no register, or of an MMU register with no MMU (10 R33). -/
  | cp0
  /-- CFC0 (46 R460). -/
  | cfc0
  /-- Data from a coprocessor that is not attached (45 R455). -/
  | copData
  /-- EntryLo after an address error or a TLB exception (10 R36). -/
  | entryLo
  /-- Rx Data while RxRDY is 0 and the write-only ICEport register (93 I14). -/
  | iceport
  /-- The datum of a load whose bus transaction ended in error (20 R179). -/
  | busError
  /-- A load in Invalidate mode, or with another number of enabled sets than one (20 R200, R203). -/
  | isolated
  deriving DecidableEq, Repr

/-- The undefined or unstated 32-bit value named `d`, drawn at tick `n`. No body: every statement holds for every
value. -/
opaque Config.freeWord : Draw → Nat → Word

/-- The clocks that pass in the step at tick `n` (10 R42, 92 D14). -/
opaque Config.freeClocks : Nat → Nat

/-- What Random moved by in the step at tick `n` (10 R35, 92 D15). -/
opaque Config.freeRandom : Nat → Nat

/-- The value register number `k` of the core holds after a cold reset taken at tick `n`, for registers cold reset
does not initialise (10 R100). -/
opaque Config.coldWord : Nat → Nat → Word

/-- State bit `k` of the caches after an event at tick `n` that leaves it open: the use bits of the I-cache after a reset
(10 R87, R101), V of a line of a disabled or scratchpad set after a flush (93 I36). -/
opaque Config.resetBit : Nat → Nat → Bool

end Sys2Proof
end

