-- ==== Sys2Proof/Machine/State.lean ====
section
/-! DEFINITION. The state of the machine as plain data (10 R20), the reasons a step stops, and the state after reset
(10 R100). Bits the spec reserves are kept zero by every write (R32). -/

namespace Sys2Proof.Machine

/-! ### Why a step stops -/

/-- Stops the spec calls "stuck" (93). -/
inductive Fault where
  /-- An access the environment never answers (20 R124, 93 I40). Raised by fetches, loads, line fills, and by writes
  that something waits for. Safe: the hardware makes no progress either. -/
  | busHang
  deriving DecidableEq, Repr

/-- Stops for which the spec gives no effect (93 section 1.2, treatment `refuse`). All are safe: the model claims
nothing where the hardware goes on. -/
inductive Refusal where
  /-- An arm of `exec` that has no meaning yet. Safe. -/
  | notModelled (mnemonic : String)
  /-- A jump or branch in a delay slot (43 R401). Raised by every jump and branch. Safe. -/
  | branchInDelaySlot
  /-- ERET in a delay slot (43 R401). Raised by ERET. Safe. -/
  | eretInDelaySlot
  /-- RFE in a delay slot that is not JR's or JALR's (93 I20). Raised by RFE. Safe. -/
  | rfeInDelaySlot
  /-- More than one entry of the joint TLB matches (10 R82). Raised by translation and TLBP. Safe. -/
  | tlbMultipleMatch
  /-- Index names an entry beyond the last (93 I26). Raised by TLBR and TLBWI. Safe. -/
  | tlbIndexRange
  /-- Wired is above the last entry, so Random has no value (93 I27). Raised by TLBWR and MFC0 of Random. Safe. -/
  | wiredRange
  /-- A reserved C field translates (93 I28). Raised by translation. Safe. -/
  | reservedCacheAlgorithm
  /-- An 8-Kbyte cache set and a 4-Kbyte page with va[12] different from pa[12] (20 R157). Raised by cached accesses.
  Safe. -/
  | cacheAlias
  /-- Status.KSU is 0b01 or 0b11 with EXL = ERL = 0 (92 D21). Raised before the fetch. Safe. -/
  | reservedKsu
  /-- An isolated-cache access while not running in kseg1 or with interrupts enabled (93 I31). Raised by loads and
  stores. Safe. -/
  | isolatePrecondition
  /-- CCC.IS or CCC.DS names another set size than the one built (10 R63, 93 I30). Raised by MTC0 to CCC, and by
  accesses that use the cache, a scratchpad or the isolated caches. Safe. -/
  | cacheSizeMismatch
  /-- CCC.CMP is cleared after it has been set (10 R48, R63, 93 I30). Raised by MTC0 to CCC. Safe. -/
  | cmpCleared
  /-- A byte, halfword or tribyte access to an ICEport register (93 I33). Raised by loads and stores. Safe. -/
  | iceportNotWord
  deriving DecidableEq, Repr

/-! ### The pieces of state -/

/-- One joint-TLB entry (10 R80). -/
structure TlbEntry where
  /-- M: 16-Mbyte page. -/
  big : Bool
  vpn : BitVec 20
  asid : BitVec 8
  pfn : BitVec 20
  /-- C: the cache algorithm. -/
  alg : BitVec 3
  dirty : Bool
  valid : Bool
  isGlobal : Bool
  deriving DecidableEq, Repr

/-- The tag RAM word of a cache line: pa[31:10], V and WB (10 R85, R86; the I-cache has no WB bit, it stays false). -/
structure Tag where
  addr : BitVec 22
  valid : Bool
  dirty : Bool
  deriving DecidableEq, Repr

/-- What an unlisted line holds: log entry 3. -/
def Tag.invalid : Tag := { addr := 0, valid := false, dirty := false }

/-- One cache set: tags by line number, data by byte offset inside the set. Unlisted tags are invalid, unlisted data
bytes are 0. -/
structure CacheSet where
  tags : List (Nat × Tag)
  data : List Host.Cell
  deriving DecidableEq, Repr

/-- The two sets of a cache (10 R85, R86). -/
structure Cache where
  set0 : CacheSet
  set1 : CacheSet
  deriving DecidableEq, Repr

/-- One write-buffer entry: consecutive bytes from `addr` in address order (10 R88). -/
structure WriteEntry where
  addr : Word
  bytes : List Byte
  deriving DecidableEq, Repr

/-- The CP0 registers (10 R30). PRId is a constant of Config. -/
structure Cp0 where
  index : Word
  random : Word
  entryLo : Word
  context : Word
  pageMask : Word
  wired : Word
  dcs : Word
  badVAddr : Word
  count : Word
  entryHi : Word
  compare : Word
  status : Word
  /-- BD, BT, CE, ExcCode and IP[1:0]; IP[7:2] are live inputs (R53) and are zero here. -/
  cause : Word
  epc : Word
  ccc : Word
  llAddr : Word
  bpc : Word
  bda : Word
  bpcm : Word
  bdam : Word
  rotate : Word
  cmask : Word
  errorEpc : Word
  deriving DecidableEq, Repr

/-- The ICEport registers (60 R570). -/
structure Uart where
  rxData : Byte
  rxReady : Bool
  rxOverrun : Bool
  rxIntEnable : Bool
  txReady : Bool
  txData : Byte
  deriving DecidableEq, Repr

/-- A snoop invalidation: `CiNVAp[31:5]` with the strobes of the two caches (20 R176). -/
structure Snoop where
  line : BitVec 27
  icache : Bool
  dcache : Bool
  deriving DecidableEq, Repr

/-- The inputs sampled at an instruction boundary (10 R91); true is asserted. -/
structure Pins where
  cold : Bool
  warm : Bool
  nmi : Bool
  exInt : BitVec 6
  evi : Bool
  /-- `EXVAp[31:2]`. -/
  eviAddr : BitVec 30
  cpCond : BitVec 4
  /-- What the coprocessor drives on `CPFRCDp` (45 R440). -/
  cpData : Word
  /-- `FPERRXn` for the coprocessor instruction of this step (60 R535). -/
  cpFault : Bool
  /-- A bus error ends the fetch or data-read transactions of this step (20 R179). -/
  errFetch : Bool
  errRead : Bool
  /-- Not every write of this step ends well (20 R124): `goodWrites` says in order which do. One that does not is never
  answered if `hang` is true, else it ends in a bus error. -/
  errWrite : Bool
  /-- How the writes of this step end, in order, where `errWrite` is true; one that is not listed does not end well. -/
  goodWrites : List Bool
  /-- Such an error of a load, a line fill for data or a write reaches the core only at a later step (93 I44). -/
  errLater : Bool
  /-- A bus error of an earlier transaction reaches the core now (92 D25). -/
  errArrives : Bool
  /-- The bus never answers a read of this step, nor a write that `errWrite` speaks of (93 I40). -/
  hang : Bool
  snoops : List Snoop
  /-- Bytes another bus master writes, while CCC.BEG is 1 (10 R62). -/
  masterWrites : List Host.Cell
  /-- Bytes of devices that change by themselves (20 R124). -/
  deviceWrites : List Host.Cell
  /-- The OCAbus accepts this step's data access; the datum it gives a load (20 R123). -/
  oca : Option Word
  /-- Bytes the UART receives, and its transmitter reaching data bit 7 (60 R570). -/
  rxBytes : List Byte
  txDone : Bool
  deriving DecidableEq, Repr

/-- How old a value each hazard consumer sees: 0 is the current one, n the n-th most recent that a write still inside its
distance replaced (70 R621, R631). -/
structure Stale where
  index : Nat
  entryLo : Nat
  entryHi : Nat
  pageMask : Nat
  status : Nat
  epc : Nat
  errorEpc : Nat
  ccc : Nat
  deriving DecidableEq, Repr

/-- What the hardware chooses where the spec allows several outcomes (log entry 8). -/
structure Choice where
  /-- Write-buffer entries that leave at the end of the step (20 R180, R183). -/
  drain : Nat
  /-- The set a missing line goes to where both can take it: in the D-cache always, in the I-cache when both lines are
  Invalid (20 R171, R172). -/
  victim : Bool
  /-- Inside a hazard distance, the value each consumer sees (70 R621, R631). -/
  stale : Stale
  /-- A load or store right after TLBWI, TLBWR or TLBR sees the entry or the ASID from before it (70 R630). -/
  staleTlb : Bool
  /-- A load or store right before TLBWI, TLBWR or TLBR already sees the entry or the ASID from after it (70 R630). -/
  earlyTlb : Bool
  /-- The instruction TLB is refilled before this fetch (93 I37). -/
  itlbFresh : Bool
  /-- Where the instruction TLB holds two entries of the page of a fetch, the older one is used (93 I37). -/
  itlbOlder : Bool
  /-- An ERET, TLBWI or TLBWR right after the instruction that raises an exception takes effect (70 R632). -/
  leakNext : Bool
  /-- What HI and LO become at an exception entry when one of the next four instructions writes them (60 R503). -/
  leakHiLo : Option (Word × Word)
  /-- Context.BadVPN and EntryHi.VPN after an address error (60 R520). -/
  badVpn : Option (BitVec 20 × BitVec 20)
  /-- Cause.CE of an exception that is not CpU (92 D13). -/
  ce : BitVec 2
  /-- Cause.BT when BD is 0 (92 D13). -/
  bt : Bool
  /-- Index[4:0] after a failed TLBP (93 I13). -/
  probeIndex : Option (BitVec 5)
  /-- Bits [9:3] of a tag-test load (20 R202). -/
  tagBits : BitVec 7
  /-- EPC, BD and BT of a true trap in a delay slot (93 I21). -/
  slotTrap : Option (Word × Bool × Bool)
  /-- CACHE 00101 to 00111 act as WB (93 I35). -/
  silentWb : Bool
  /-- The Status bits a cold reset does not set become any value instead of staying (10 R51, R100, 60 R545). -/
  scramble : Bool
  /-- A cache instruction of the last three is still not seen (70 R633). -/
  late : Bool
  /-- An instruction already fetched behind WAITI executes before the clock stops (70 R634). -/
  slip : Bool
  /-- A flush leaves any V bits in the disabled and the scratchpad sets (93 I36). -/
  flushOther : Bool
  /-- Which buffered stores are lost at a warm reset or an NMI, oldest first; one that is not listed is not (93 I3). -/
  lost : List Bool
  /-- The load or store in the cancelled slot of a Branch Likely executes, while the caches are isolated (70 R636). -/
  slotRuns : Bool
  deriving DecidableEq, Repr

/-- What one step is given from outside. `clocks` is how far Count advances; `none` leaves it free (10 R42). -/
structure Env where
  pins : Pins
  choice : Choice
  clocks : Option Nat
  deriving DecidableEq, Repr

/-- The exceptions with an ExcCode (10 R54, 60 R505), with what entry records. -/
inductive Exc where
  | int
  | mod (va : Word)
  /-- TLBL or TLBS, no matching entry (60 R521). -/
  | tlbRefill (store : Bool) (va : Word)
  /-- TLBL or TLBS, matching entry with V = 0 (60 R522). -/
  | tlbInvalid (store : Bool) (va : Word)
  | adel (va : Word)
  | ades (va : Word)
  | bus
  | sys
  | bp
  | ri
  | cpu (unit : BitVec 2)
  | ov
  | tr
  | fpe
  deriving DecidableEq, Repr

/-- The entry a step took, if any (60 R505). -/
inductive Event where
  | exc (e : Exc)
  | debug
  | evi
  | nmi
  | warm
  | cold
  deriving DecidableEq, Repr

/-- A coprocessor transfer: the unit, the whole instruction word, the datum sent (45 R440). -/
structure CopTransfer where
  unit : BitVec 2
  word : Word
  dataIn : Option Word
  deriving DecidableEq, Repr

/-- What a step shows outside the core. -/
structure Outputs where
  event : Option Event
  /-- A Debug event is due for the instruction of this step (60 R561 to R563). -/
  debugDue : Bool
  /-- The DCS bits of a data breakpoint event of this step (60 R562). -/
  dataBits : Word
  cop : Option CopTransfer
  uartTx : Option Byte
  /-- `EXVAEn` (60 R542). -/
  eviAck : Bool
  /-- A store the OCAbus took: address and bytes (20 R123). -/
  ocaStore : Option (Word × List Byte)
  deriving DecidableEq, Repr

/-- The written state a hazard distance protects (70 R621, H2 to H4 and H9). -/
inductive HazardReg where
  | index
  | entryLo
  | entryHi
  | pageMask
  /-- Status, for the coprocessor usability bits. -/
  | status
  | epc
  | errorEpc
  /-- CCC, for IsC, TAG and INV. -/
  | ccc
  deriving DecidableEq, Repr

/-- A CP0 write still inside its distance: the value it replaced and the boundaries left. -/
structure Hazard where
  reg : HazardReg
  old : Word
  left : Nat
  deriving DecidableEq, Repr

/-- What a cache instruction does; WB with its effective address (47 R481 to R484). -/
inductive CacheOp where
  | flushI
  | flushD
  | flushID
  | writeBack (ea : Word)
  deriving DecidableEq, Repr

/-- A cache instruction the next instructions may not see yet, with how many of them are left (70 R633). -/
structure DueOp where
  op : CacheOp
  left : Nat
  deriving DecidableEq, Repr

/-- What the TLB instruction just before changed under a load or store that follows it (70 R630). -/
inductive TlbRecent where
  /-- TLBWI or TLBWR wrote the entry of this number, which held `old`. -/
  | wrote (i : BitVec 5) (old : TlbEntry)
  /-- TLBR replaced this ASID in EntryHi. -/
  | read (asid : BitVec 8)
  deriving DecidableEq, Repr

/-- What the trace facility still owes (60 R563). -/
inductive Trace where
  | idle
  /-- The next instruction is the delay slot of a traced taken transfer. -/
  | slot
  /-- The next instruction is its target. -/
  | target
  deriving DecidableEq, Repr

/-- The machine (10 R20; INVENTORY.md, `## State`, has one line for each field). -/
structure State where
  cfg : Config
  gpr : Vector Word 32
  hi : Word
  lo : Word
  pc : Word
  npc : Word
  inSlot : Bool
  taken : Bool
  slotOfJr : Bool
  llbit : Bool
  cp0 : Cp0
  tlb : Vector TlbEntry 32
  /-- Most recently used first (10 R81). -/
  itlb : List TlbEntry
  icache : Cache
  /-- Lines whose set 1 was used last (10 R85). -/
  imru : List (Nat × Bool)
  dcache : Cache
  /-- Oldest first (10 R88). -/
  wbuf : List WriteEntry
  busLock : Bool
  nmiPending : Bool
  nmiLevel : Bool
  coldLevel : Bool
  warmLevel : Bool
  busErrPending : Bool
  timerPending : Bool
  waiting : Bool
  /-- How many instructions already fetched behind WAITI may still execute (70 R634). -/
  waitSlip : Nat
  uart : Uart
  mem : List Host.Cell
  env : Env
  script : List Env
  out : Outputs
  recent : List Hazard
  /-- Cache instructions not seen yet, oldest first (70 R633). -/
  cacheDue : List DueOp
  /-- What the TLB instruction just before replaced (70 R630). -/
  tlbRecent : Option TlbRecent
  trace : Trace
  tick : Nat
  deriving DecidableEq, Repr

/-! ### The state after reset (10 R100) -/

/-- No input asserted. -/
def Pins.quiet : Pins where
  cold := false
  warm := false
  nmi := false
  exInt := 0
  evi := false
  eviAddr := 0
  cpCond := 0
  cpData := 0
  cpFault := false
  errFetch := false
  errRead := false
  errWrite := false
  goodWrites := []
  errLater := false
  errArrives := false
  hang := false
  snoops := []
  masterWrites := []
  deviceWrites := []
  oca := none
  rxBytes := []
  txDone := false

/-- Every hazard consumer sees the current value. -/
def Stale.current : Stale where
  index := 0
  entryLo := 0
  entryHi := 0
  pageMask := 0
  status := 0
  epc := 0
  errorEpc := 0
  ccc := 0

/-- The choices of a machine that runs its instructions one at a time: every store leaves the buffer at the end of
its step, every hazard consumer sees the new value. Log entry 8; unsafe as a value, so no statement rests on it. -/
def Choice.sequential : Choice where
  drain := 4
  victim := false
  stale := .current
  staleTlb := false
  earlyTlb := false
  itlbFresh := false
  itlbOlder := false
  leakNext := false
  leakHiLo := none
  badVpn := none
  ce := 0
  bt := false
  probeIndex := none
  tagBits := 0
  slotTrap := none
  silentWb := false
  scramble := false
  late := false
  slip := false
  flushOther := false
  lost := []
  slotRuns := false

/-- The environment at reset (log entry 6). -/
def Env.quiet : Env := { pins := .quiet, choice := .sequential, clocks := none }

/-- Nothing shown. -/
def Outputs.none : Outputs where
  event := .none
  debugDue := false
  dataBits := 0
  cop := .none
  uartTx := .none
  eviAck := false
  ocaStore := .none

/-- Every CP0 register after cold reset: Random, Wired, DCS, CCC and the Status bits by R100, R51; the rest 0 by log
entry 2. -/
def Cp0.reset : Cp0 where
  index := 0
  random := 31
  entryLo := 0
  context := 0
  pageMask := 0
  wired := 0
  dcs := 0
  badVAddr := 0
  count := 0
  entryHi := 0
  compare := 0
  status := 0x00400004
  cause := 0
  epc := 0
  ccc := 0
  llAddr := 0
  bpc := 0
  bda := 0
  bpcm := 0
  bdam := 0
  rotate := 0
  cmask := 0
  errorEpc := 0

/-- The UART after reset (60 R570). -/
def Uart.reset : Uart where
  rxData := 0
  rxReady := false
  rxOverrun := false
  rxIntEnable := false
  txReady := true
  txData := 0

/-- Every line invalid (log entry 3). -/
def Cache.empty : Cache := { set0 := { tags := [], data := [] }, set1 := { tags := [], data := [] } }

/-- A TLB entry at reset (log entry 3). -/
def TlbEntry.zero : TlbEntry where
  big := false
  vpn := 0
  asid := 0
  pfn := 0
  alg := 0
  dirty := false
  valid := false
  isGlobal := false

/-- The machine right after a cold reset (10 R100). -/
def State.reset : State where
  cfg := .default
  gpr := Vector.replicate 32 0
  hi := 0
  lo := 0
  pc := 0xBFC00000
  npc := 0xBFC00004
  inSlot := false
  taken := false
  slotOfJr := false
  llbit := false
  cp0 := .reset
  tlb := Vector.replicate 32 .zero
  itlb := []
  icache := .empty
  imru := []
  dcache := .empty
  wbuf := []
  busLock := false
  nmiPending := false
  nmiLevel := false
  coldLevel := false
  warmLevel := false
  busErrPending := false
  timerPending := false
  waiting := false
  waitSlip := 0
  uart := .reset
  mem := []
  env := .quiet
  script := []
  out := .none
  recent := []
  cacheDue := []
  tlbRecent := none
  trace := .idle
  tick := 0

end Sys2Proof.Machine
end

