-- ==== Sys2Proof/Machine/Bits.lean ====
section
/-! DEFINITION. Bit fields, extension and byte order (00 R12 to R14, 20 R131, 30 R222). -/

namespace Sys2Proof.Machine

/-- `sext_32` of a 16-bit immediate (30 R222). -/
def sext (x : BitVec 16) : Word := x.signExtend 32

/-- `zext_32` of a 16-bit immediate (30 R222). -/
def zext (x : BitVec 16) : Word := x.zeroExtend 32

/-- `old` with the bits of `mask` taken from `new`. -/
def merge (mask old new : Word) : Word := (old &&& ~~~mask) ||| (new &&& mask)

/-- A Boolean as the bit of `mask`. -/
def flag (mask : Word) (b : Bool) : Word := if b then mask else 0

/-- The first `n` bytes of `v` from the least significant one. -/
def lowBytes : Nat → Word → List Byte
  | 0, _ => []
  | n + 1, v => v.extractLsb' 0 8 :: lowBytes n (v >>> 8)

/-- The value of bytes whose first is the least significant. -/
def ofLowBytes : List Byte → Word
  | [] => 0
  | b :: bs => (ofLowBytes bs <<< 8) ||| b.zeroExtend 32

/-- The `n` low bytes of `v` in address order (20 R131). -/
def toBytes (bigEndian : Bool) (n : Nat) (v : Word) : List Byte :=
  if bigEndian then (lowBytes n v).reverse else lowBytes n v

/-- The value of bytes in address order (20 R131). -/
def ofBytes (bigEndian : Bool) (bs : List Byte) : Word :=
  ofLowBytes (if bigEndian then bs.reverse else bs)

/-- An address on an `n`-byte boundary (20 R141). -/
def aligned (n : Nat) (va : Word) : Bool := va.toNat % n == 0

/-- kseg1: `va[31:29] = 0b101` (20 R121). -/
def inKseg1 (va : Word) : Bool := va.extractLsb' 29 3 == 0b101#3

/-- kseg0 or kseg1, never mapped: `va[31:30] = 0b10` (20 R150). -/
def unmapped (va : Word) : Bool := va.extractLsb' 30 2 == 0b10#2

/-- Whether two byte ranges overlap (20 R181). -/
def overlaps (a : Word) (n : Nat) (b : Word) (k : Nat) : Bool :=
  decide (a.toNat < b.toNat + k) && decide (b.toNat < a.toNat + n)

end Sys2Proof.Machine
end

