-- ==== Sys2Proof/Machine/Sparse.lean ====
section
/-! DEFINITION. Association lists in one canonical form: keys strictly rising, no entry equal to the value an unlisted
key has. Memory, cache data, cache tags and the I-cache's use bits are held this way. -/

namespace Sys2Proof.Machine

/-- The value at key `k`; `d` where nothing is listed. -/
def Sparse.get {α : Type} (d : α) : List (Nat × α) → Nat → α
  | [], _ => d
  | (k, v) :: t, a => if a = k then v else Sparse.get d t a

/-- Store `v` at key `a`; storing `d` removes the entry. -/
def Sparse.set {α : Type} [DecidableEq α] (d : α) : List (Nat × α) → Nat → α → List (Nat × α)
  | [], a, v => if v = d then [] else [(a, v)]
  | (k, w) :: t, a, v =>
    if a = k then (if v = d then t else (a, v) :: t)
    else if a < k then (if v = d then (k, w) :: t else (a, v) :: (k, w) :: t)
    else (k, w) :: Sparse.set d t a v

/-- The canonical form above a lower bound for the keys. -/
def Sparse.wfFrom {α : Type} [DecidableEq α] (d : α) : Nat → List (Nat × α) → Bool
  | _, [] => true
  | lo, (k, v) :: t => decide (lo ≤ k) && decide (v ≠ d) && Sparse.wfFrom d (k + 1) t

/-- The canonical form. -/
def Sparse.wf {α : Type} [DecidableEq α] (d : α) (m : List (Nat × α)) : Bool := Sparse.wfFrom d 0 m

/-- Every key is below `n`. -/
def Sparse.below {α : Type} (n : Nat) (m : List (Nat × α)) : Bool := m.all fun p => decide (p.1 < n)

/-- What a byte of memory that nothing has written reads as (log entry 4). -/
def Memory.unlisted : Byte := 0

/-- The byte at a physical address (20 R124). -/
def Memory.read (m : List Host.Cell) (a : Nat) : Byte := Sparse.get Memory.unlisted m a

/-- Store one byte (20 R124). -/
def Memory.write (m : List Host.Cell) (a : Nat) (b : Byte) : List Host.Cell := Sparse.set Memory.unlisted m a b

/-- The canonical form of a memory: rising addresses, no listed byte equal to an unlisted one, all inside the
4-Gbyte space (20 R120). -/
def Memory.wf (m : List Host.Cell) : Bool := Sparse.wf Memory.unlisted m && Sparse.below (2 ^ 32) m

/-- `n` bytes from `a` in address order; addresses wrap at 2^32 (10 R26). -/
def Memory.readBytes (m : List Host.Cell) (a : Word) : Nat → List Byte
  | 0 => []
  | n + 1 => Memory.read m a.toNat :: Memory.readBytes m (a + 1) n

/-- Store bytes from `a` in address order. -/
def Memory.writeBytes (m : List Host.Cell) (a : Word) : List Byte → List Host.Cell
  | [] => m
  | b :: bs => Memory.writeBytes (Memory.write m a.toNat b) (a + 1) bs

/-- Store a list of cells given by somebody outside the core, each address taken modulo 2^32. -/
def Memory.writeCells (m : List Host.Cell) : List Host.Cell → List Host.Cell
  | [] => m
  | (a, b) :: cs => Memory.writeCells (Memory.write m (a % 2 ^ 32) b) cs

end Sys2Proof.Machine
end

