-- ==== Sys2Proof/Machine/Flags.lean ====
section
/-! DEFINITION. The CW4011 has no condition codes (10 R27): what other cores hold in flags is a predicate here. The
configuration bits, the mode and interrupt predicates, the interrupt pending bits, the overflow predicates and the
usability predicates. -/

namespace Sys2Proof.Machine

/-! ### CCC (10 R62) -/

def Ccc.ewp (w : Word) : Bool := w.getLsbD 28
def Ccc.isr1 (w : Word) : Bool := w.getLsbD 26
def Ccc.evi (w : Word) : Bool := w.getLsbD 25
def Ccc.cmp (w : Word) : Bool := w.getLsbD 24
def Ccc.iie (w : Word) : Bool := w.getLsbD 23
def Ccc.die (w : Word) : Bool := w.getLsbD 22
def Ccc.mul (w : Word) : Bool := w.getLsbD 21
def Ccc.mad (w : Word) : Bool := w.getLsbD 20
def Ccc.tmr (w : Word) : Bool := w.getLsbD 19
def Ccc.beg (w : Word) : Bool := w.getLsbD 18
def Ccc.ie0 (w : Word) : Bool := w.getLsbD 17
def Ccc.ie1 (w : Word) : Bool := w.getLsbD 16
/-- IS[1:0]: the I-cache set size is `2^IS` Kbytes. -/
def Ccc.isize (w : Word) : Nat := (w.extractLsb' 14 2).toNat
def Ccc.de0 (w : Word) : Bool := w.getLsbD 13
def Ccc.de1 (w : Word) : Bool := w.getLsbD 12
/-- DS[1:0]: the D-cache set size is `2^DS` Kbytes. -/
def Ccc.dsize (w : Word) : Nat := (w.extractLsb' 10 2).toNat
def Ccc.te (w : Word) : Bool := w.getLsbD 6
def Ccc.wb (w : Word) : Bool := w.getLsbD 5
def Ccc.sr0 (w : Word) : Bool := w.getLsbD 4
def Ccc.sr1 (w : Word) : Bool := w.getLsbD 3
def Ccc.isc (w : Word) : Bool := w.getLsbD 2
def Ccc.tag (w : Word) : Bool := w.getLsbD 1
def Ccc.inv (w : Word) : Bool := w.getLsbD 0

/-! ### Mode and interrupts (10 R46 to R53, 60 R550, R554) -/

/-- R3000 mode: CCC.CMP = 1 (00 R3). -/
def State.r3000 (s : State) : Bool := Ccc.cmp s.cp0.ccc

/-- Status.EXL (R46). -/
def State.exl (s : State) : Bool := s.cp0.status.getLsbD 1

/-- Status.ERL (R46). -/
def State.erl (s : State) : Bool := s.cp0.status.getLsbD 2

/-- Status.KSU (R46). -/
def State.ksu (s : State) : BitVec 2 := s.cp0.status.extractLsb' 3 2

/-- Status.BEV (R45). -/
def State.bev (s : State) : Bool := s.cp0.status.getLsbD 22

/-- UserMode (R50). -/
def State.userMode (s : State) : Bool :=
  if s.r3000 then s.cp0.status.getLsbD 1 else s.ksu == 0b10#2 && !s.exl && !s.erl

/-- KernelMode (R50). -/
def State.kernelMode (s : State) : Bool :=
  if s.r3000 then !s.cp0.status.getLsbD 1 else s.ksu == 0b00#2 || s.exl || s.erl

/-- Neither predicate holds: a reserved KSU with EXL = ERL = 0 (92 D21). -/
def State.reservedMode (s : State) : Bool := !s.userMode && !s.kernelMode

/-- IntEnabled (R49). -/
def State.intEnabled (s : State) : Bool :=
  if s.r3000 then s.cp0.status.getLsbD 0 else s.cp0.status.getLsbD 0 && !s.exl && !s.erl

/-- `sc_ICEINTp` (60 R570). -/
def State.iceportInt (s : State) : Bool := s.cfg.iceportPresent && s.uart.rxIntEnable && s.uart.rxReady

/-- The six interrupt inputs, the ICEport's line among them (10 R53, 60 R571). -/
def State.exIntPins (s : State) : BitVec 6 :=
  s.env.pins.exInt |||
    match s.cfg.iceportLine with
    | .ext line => if s.iceportInt then (1#6) <<< line.toNat else 0
    | .none => 0
    | .nmi => 0

/-- Cause.IP[7:0]: the inputs, or the timer for IP[7], and the two stored bits (10 R53, 60 R551). -/
def State.ip (s : State) : BitVec 8 :=
  (if Ccc.tmr s.cp0.ccc then BitVec.ofBool s.timerPending else s.exIntPins.extractLsb' 5 1) ++
    s.exIntPins.extractLsb' 0 5 ++ s.cp0.cause.extractLsb' 8 2

/-- IntDue (60 R550). -/
def State.intDue (s : State) : Bool :=
  s.intEnabled && (s.ip &&& s.cp0.status.extractLsb' 8 8) != 0

/-- EVIDue (60 R554). -/
def State.eviDue (s : State) : Bool := Ccc.evi s.cp0.ccc && s.intEnabled && s.env.pins.evi

/-! ### Hazards (70 R621, R631, R635) -/

/-- How old a value of `r` its consumers see. -/
def Stale.of (x : Stale) : HazardReg → Nat
  | .index => x.index
  | .entryLo => x.entryLo
  | .entryHi => x.entryHi
  | .pageMask => x.pageMask
  | .status => x.status
  | .epc => x.epc
  | .errorEpc => x.errorEpc
  | .ccc => x.ccc

/-- The value a hazard consumer sees: the current one, or one that a write inside the distance replaced. -/
def State.seen (s : State) (r : HazardReg) (current : Word) : Word :=
  (current :: (s.recent.filter fun h => h.reg == r).map Hazard.old).getD (s.env.choice.stale.of r) current

/-- The hardware itself writes the registers `rs`: that ends the distances of MTC0s to them (log entry 17). -/
def State.endHazards (s : State) (rs : List HazardReg) : State :=
  { s with recent := s.recent.filter fun h => !rs.contains h.reg }

/-- Record that `r` held `old` before a write of this instruction, for a distance of `n` instructions. -/
def State.noteHazard (s : State) (r : HazardReg) (old : Word) (n : Nat) : State :=
  { s with recent := { reg := r, old := old, left := n + 1 } :: s.recent }

/-- One instruction later: a distance that has run out is forgotten. -/
def Hazard.age (h : Hazard) : Hazard := { h with left := h.left - 1 }

/-- One instruction later, for every pending distance. -/
def State.ageHazards (s : State) : State :=
  { s with recent := (s.recent.map Hazard.age).filter fun h => h.left != 0 }

/-- IsC, TAG and INV as loads and stores see them (70 R635). -/
def State.testMode (s : State) : Word := s.seen .ccc s.cp0.ccc

/-! ### Usability (45 R441, 30 R247, 46 R463) -/

/-- CopUsable (45 R441); the CU bits are seen through their hazard (45 R454). -/
def State.copUsable (s : State) (z : BitVec 2) : Bool :=
  (s.seen .status s.cp0.status).getLsbD (28 + z.toNat) || (z == 0 && s.kernelMode)

/-- A usable TLB for the TLB instructions and for translation (46 section 3, 20 R150). -/
def State.tlbEnabled (s : State) : Bool := s.cfg.tlbPresent && Ccc.te s.cp0.ccc

/-- The multiply/divide group executes (30 R247). -/
def State.mduUsable (s : State) : Bool := s.cfg.mduPresent && Ccc.mul s.cp0.ccc

/-- The multiply-accumulate group executes (30 R247, 42 R358). -/
def State.macUsable (s : State) : Bool :=
  s.cfg.mduPresent && s.cfg.macPresent && Ccc.mul s.cp0.ccc && Ccc.mad s.cp0.ccc

/-- `CP_PRESENT[z]` (00 R9). -/
def State.cpPresent (s : State) (z : BitVec 2) : Bool :=
  if z = 1 then s.cfg.cp1Present else if z = 2 then s.cfg.cp2Present else if z = 3 then s.cfg.cp3Present else false

/-- The condition line of coprocessor `z` (45 R449). -/
def State.cpCond (s : State) (z : BitVec 2) : Bool := s.env.pins.cpCond.getLsbD z.toNat

/-! ### Comparisons and overflow (41 R300) -/

/-- AddOverflow: the exact signed sum is not the 32-bit one. -/
def addOverflow (a b : Word) : Bool := decide ((a + b).toInt ≠ a.toInt + b.toInt)

/-- SubOverflow. -/
def subOverflow (a b : Word) : Bool := decide ((a - b).toInt ≠ a.toInt - b.toInt)

/-- `signed(a) < signed(b)`. -/
def ltSigned (a b : Word) : Bool := decide (a.toInt < b.toInt)

/-- `unsigned(a) < unsigned(b)`. -/
def ltUnsigned (a b : Word) : Bool := decide (a.toNat < b.toNat)

/-- A comparison delivers 0 or 1 (10 R27). -/
def setIf (c : Bool) : Word := if c then 1 else 0

/-! ### Outputs that mirror registers -/

/-- `CPRSTn[z]` asserted: coprocessor `z` is held in reset (10 R45, 45 R440). -/
def State.cpReset (s : State) (z : BitVec 2) : Bool := !s.cp0.status.getLsbD (28 + z.toNat)

/-- `SCBGEp` (10 R62). -/
def State.busGrantEnable (s : State) : Bool := Ccc.beg s.cp0.ccc

/-- `CPZSTALLp` (60 R590). -/
def State.stallOutput (s : State) : Bool := s.waiting

end Sys2Proof.Machine
end

