-- ==== Sys2Proof/Machine/Operands.lean ====
section
/-! DEFINITION. Operand forms: registers, effective addresses, jump and branch targets, and the bytes LWL, LWR, SWL
and SWR take (10 R21, 20 R140, 30 R222 to R224, 40 R287). -/

namespace Sys2Proof.Machine

/-- GPR[r]; r0 reads zero (10 R21). -/
def State.reg (s : State) (r : BitVec 5) : Word := if r = 0 then 0 else s.gpr[r.toNat]'(r.isLt)

/-- Write GPR[r]; a write to r0 is discarded (10 R21). -/
def State.setReg (s : State) (r : BitVec 5) (v : Word) : State :=
  if r = 0 then s else { s with gpr := s.gpr.set r.toNat v (r.isLt) }

/-- Write HI and LO (10 R23, R24). -/
def State.setHiLo (s : State) (hi lo : Word) : State := { s with hi := hi, lo := lo }

/-- The effective address (20 R140). -/
def State.ea (s : State) (base : BitVec 5) (offset : BitVec 16) : Word := s.reg base + sext offset

/-- The target of a branch at the current instruction (30 R223). -/
def State.branchTarget (s : State) (offset : BitVec 16) : Word := s.pc + 4 + (sext offset <<< 2)

/-- The target of J and JAL (30 R224). -/
def State.jumpTarget (s : State) (target : BitVec 26) : Word :=
  (s.pc + 4).extractLsb' 28 4 ++ target ++ (0#2)

/-- The link value (43 R374). -/
def State.link (s : State) : Word := s.pc + 8

/-- The word-aligned address of the word that holds `va` (40 R287). -/
def wordBase (va : Word) : Word := va &&& ~~~3

/-- `va[1:0]` (40 R287). -/
def byteIndex (va : Word) : Nat := va.toNat % 4

/-- How many bytes LWL and SWL move (40 R287). -/
def leftCount (bigEndian : Bool) (va : Word) : Nat :=
  if bigEndian then 4 - byteIndex va else byteIndex va + 1

/-- The lowest address LWL and SWL access (40 R287). -/
def leftStart (bigEndian : Bool) (va : Word) : Word := if bigEndian then va else wordBase va

/-- How many bytes LWR and SWR move (40 R287). -/
def rightCount (bigEndian : Bool) (va : Word) : Nat :=
  if bigEndian then byteIndex va + 1 else 4 - byteIndex va

/-- The lowest address LWR and SWR access (40 R287). -/
def rightStart (bigEndian : Bool) (va : Word) : Word := if bigEndian then wordBase va else va

/-- LWL's result: the `n` bytes read, of value `v`, become the high bytes of `old` (40 R276). -/
def mergeLeft (n : Nat) (v old : Word) : Word :=
  (v <<< (8 * (4 - n))) ||| (old &&& ~~~(0xFFFFFFFF#32 <<< (8 * (4 - n))))

/-- LWR's result: the `n` bytes read become the low bytes of `old` (40 R277). -/
def mergeRight (n : Nat) (v old : Word) : Word :=
  v ||| (old &&& ~~~(0xFFFFFFFF#32 >>> (8 * (4 - n))))

/-- What SWL stores: the `n` high bytes (40 R281). -/
def storeLeft (n : Nat) (v : Word) : Word := v >>> (8 * (4 - n))

end Sys2Proof.Machine
end

