-- ==== Sys2Proof/Machine/Tlb.lean ====
section
/-! DEFINITION. What an operation inside a step can answer, the TLB, and address translation (10 R80 to R82, 20 R150
to R156, 46 R464). -/

namespace Sys2Proof.Machine

/-- What an operation inside a step answers: a value and the state after it, an exception raised in a state, the
instruction given up in a state because its Debug exception is taken (60 R562, R564), or a stop. -/
inductive Res (α : Type) where
  | ok (a : α) (s : State)
  | raise (e : Exc) (s : State)
  | abandon (s : State)
  | fault (f : Fault)
  | refuse (r : Refusal)

/-- Go on with the value, if there is one. -/
def Res.andThen {α β : Type} (x : Res α) (f : α → State → Res β) : Res β :=
  match x with
  | .ok a s => f a s
  | .raise e s => .raise e s
  | .abandon s => .abandon s
  | .fault r => .fault r
  | .refuse r => .refuse r

/-- The same answer, with the state `s` behind it. -/
def Res.inState {α : Type} (s : State) (x : Res α) : Res α :=
  match x with
  | .ok a _ => .ok a s
  | .raise e _ => .raise e s
  | .abandon _ => .abandon s
  | .fault r => .fault r
  | .refuse r => .refuse r

/-- Why memory is accessed (20 R150). -/
inductive Access where
  | fetch
  | load
  | store
  deriving DecidableEq, Repr

/-- The cache attribute of an access (20 R150). -/
inductive Attr where
  | uncached
  | writeThrough
  | writeBack
  deriving DecidableEq, Repr

/-- An address error of the access's kind (20 R143). -/
def addressError (k : Access) (va : Word) : Exc :=
  match k with
  | .fetch => .adel va
  | .load => .adel va
  | .store => .ades va

/-- VpnEq (20 R152). -/
def TlbEntry.vpnEq (e : TlbEntry) (va : Word) : Bool :=
  if e.big then e.vpn.extractLsb' 12 8 == va.extractLsb' 24 8 else e.vpn == va.extractLsb' 12 20

/-- Match (20 R152). -/
def TlbEntry.matchesVa (e : TlbEntry) (asid : BitVec 8) (va : Word) : Bool :=
  e.vpnEq va && (e.isGlobal || e.asid == asid)

/-- PhysOf (20 R154). -/
def TlbEntry.physOf (e : TlbEntry) (va : Word) : Word :=
  if e.big then e.pfn.extractLsb' 12 8 ++ va.extractLsb' 0 24 else e.pfn ++ va.extractLsb' 0 12

/-- The entries that match, with their numbers; only entries up to TLBENTRIES - 1 exist (10 R80). -/
def tlbHits (t : Vector TlbEntry 32) (last : BitVec 5) (asid : BitVec 8) (va : Word) : List (TlbEntry × Nat) :=
  t.toList.zipIdx.filter fun p => decide (p.2 ≤ last.toNat) && p.1.matchesVa asid va

/-- The current ASID (20 R156), seen through the hazard of a write to EntryHi (20 R206). -/
def State.asid (s : State) : BitVec 8 := (s.seen .entryHi s.cp0.entryHi).extractLsb' 0 8

/-- The entry EntryHi, EntryLo and PageMask describe (46 R464), seen through their hazards. -/
def State.entryOfRegs (s : State) : TlbEntry :=
  let hi := s.seen .entryHi s.cp0.entryHi
  let lo := s.seen .entryLo s.cp0.entryLo
  { big := (s.seen .pageMask s.cp0.pageMask).getLsbD 13
    vpn := hi.extractLsb' 12 20
    asid := hi.extractLsb' 0 8
    pfn := lo.extractLsb' 6 20
    alg := lo.extractLsb' 3 3
    dirty := lo.getLsbD 2
    valid := lo.getLsbD 1
    isGlobal := lo.getLsbD 0 }

/-- Index.Index, seen through its hazard (46 R463). -/
def State.tlbIndex (s : State) : BitVec 5 := (s.seen .index s.cp0.index).extractLsb' 0 5

/-- The value Random takes in the step at tick `n`, some value between Wired and the last entry; none where that range
is empty (10 R35, 92 D15, 93 I27). -/
def State.randomAt (s : State) (n : Nat) : Option (BitVec 5) :=
  let lo := (s.cp0.wired.extractLsb' 0 5).toNat
  let hi := s.cfg.tlbLast.toNat
  if lo ≤ hi then some (BitVec.ofNat 5 (lo + Config.freeRandom n % (hi - lo + 1))) else none

/-- Set 1 of the I-cache is built (10 R85). The enable and scratchpad bits of a set that is not built have no effect: log
entry 30. -/
def State.iSet1 (s : State) : Bool := s.cfg.icachePresent && s.cfg.icacheTwoWay

/-- Set 1 of the D-cache is built (10 R86). -/
def State.dSet1 (s : State) : Bool := s.cfg.dcachePresent && s.cfg.dcacheTwoWay

/-- At least one set of the cache serves accesses of this kind (20 R155). -/
def State.cacheEnabled (s : State) (k : Access) : Bool :=
  match k with
  | .fetch => s.cfg.icachePresent && Ccc.ie0 s.cp0.ccc || s.iSet1 && Ccc.ie1 s.cp0.ccc
  | _ => s.cfg.dcachePresent && Ccc.de0 s.cp0.ccc || s.dSet1 && Ccc.de1 s.cp0.ccc

/-- SegAttr (20 R155). -/
def State.segAttr (s : State) (k : Access) : Attr :=
  if s.cacheEnabled k then
    (if k = .fetch then .writeThrough else if Ccc.wb s.cp0.ccc then .writeBack else .writeThrough)
  else .uncached

/-- AttrOf (20 R155); a reserved C field has no attribute. -/
def State.algAttr (s : State) (c : BitVec 3) (k : Access) : Option Attr :=
  if s.cacheEnabled k then
    (if c = 2 then some .uncached else if c = 3 then some .writeThrough else if c = 7 then some .writeBack else none)
  else some .uncached

/-- The physical address and attribute an entry gives, with the V and D checks (20 R153). -/
def State.useEntry (s : State) (e : TlbEntry) (va : Word) (k : Access) : Res (Word × Attr) :=
  if !e.valid then .raise (.tlbInvalid (k = .store) va) s
  else if k = .store && !e.dirty then .raise (.mod va) s
  else match s.algAttr e.alg k with
    | some attr => .ok (e.physOf va, attr) s
    | none => .refuse .reservedCacheAlgorithm

/-- The unique matching entry of the joint TLB (20 R152, R153). -/
def State.jointLookup (s : State) (va : Word) (k : Access) : Res TlbEntry :=
  match tlbHits s.tlb s.cfg.tlbLast s.asid va with
  | [] => .raise (.tlbRefill (k = .store) va) s
  | [(e, _)] => .ok e s
  | _ :: _ :: _ => .refuse .tlbMultipleMatch

/-- TLBLookup for loads and stores (20 R153). -/
def State.dataLookup (s : State) (va : Word) (k : Access) : Res (Word × Attr) :=
  (s.jointLookup va k).andThen fun e s => s.useEntry e va k

/-- The entry moves to the front of the instruction TLB; at most two stay (10 R81). One that is not of the current ASID
does not enter: a fetch inside the distance of an MTC0 to EntryHi may use it, but not one after it (20 R206). -/
def State.touchItlb (s : State) (e : TlbEntry) : State :=
  if e.isGlobal || e.asid == s.cp0.entryHi.extractLsb' 0 8 then
    { s with itlb := (e :: s.itlb.filter fun x => x != e).take 2 }
  else s

/-- The entries the instruction TLB offers a fetch: none if the hardware has refilled it (93 I37). -/
def State.heldEntries (s : State) : List TlbEntry := if s.env.choice.itlbFresh then [] else s.itlb

/-- The entry the instruction TLB gives a fetch. It can hold two of one page only where the joint TLB has changed under it
without a purge; either may be used then (93 I37, log entry 35). -/
def State.heldFor (s : State) (va : Word) : Option TlbEntry :=
  match s.heldEntries.filter fun e => e.vpnEq va with
  | [] => none
  | e :: es => some (if s.env.choice.itlbOlder then es.headD e else e)

/-- TLBLookup for fetches, through the instruction TLB (10 R81). An entry it holds is used even where the joint TLB
has changed (93 I37). Two matching entries of the joint TLB stop it (10 R82). -/
def State.fetchLookup (s : State) (va : Word) : Res (Word × Attr) :=
  match s.heldFor va, tlbHits s.tlb s.cfg.tlbLast s.asid va with
  | _, _ :: _ :: _ => .refuse .tlbMultipleMatch
  | some e, _ => (s.touchItlb e).useEntry e va .fetch
  | none, [(e, _)] => ({ s with itlb := s.heldEntries }.useEntry e va .fetch).andThen fun r s => .ok r (s.touchItlb e)
  | none, [] => .raise (.tlbRefill false va) { s with itlb := s.heldEntries }

/-- AddrTranslate (20 R150); `isolated` is CCC.IsC as the access sees it (R151). -/
def State.translate (s : State) (va : Word) (k : Access) (isolated : Bool) : Res (Word × Attr) :=
  if k = .fetch && !aligned 4 va then .raise (.adel va) s
  else if s.userMode && va.getLsbD 31 then .raise (addressError k va) s
  else if unmapped va then
    .ok (va &&& 0x1FFFFFFF, if inKseg1 va then .uncached else s.segAttr k) s
  else if s.tlbEnabled && !isolated then
    (if k = .fetch then s.fetchLookup va else s.dataLookup va k)
  else .ok (va, s.segAttr k) s

/-- A mapped address: kuseg or kseg2 with the TLB enabled (20 R150). -/
def State.mapped (s : State) (va : Word) : Bool := s.tlbEnabled && !unmapped va

end Sys2Proof.Machine
end

