-- ==== Sys2Proof/Machine/Cache.lean ====
section
/-! DEFINITION. The two caches as data: geometry, lookup, line updates (10 R85, R86, 20 R170 to R176). `size` is the
CCC size code: the set has `2^size` Kbytes. -/

namespace Sys2Proof.Machine

/-- The line number of an address: `va[8+n : 5]` with `n = size + 1` (20 R170). -/
def lineOf (size : Nat) (va : Word) : Nat := va.toNat / 32 % (32 * 2 ^ size)

/-- The byte offset of an address inside a set: `va[8+n : 0]` (20 R201). -/
def offsetOf (size : Nat) (va : Word) : Nat := va.toNat % (1024 * 2 ^ size)

/-- The first byte offset of a line. -/
def lineOffset (line : Nat) : Nat := 32 * line

/-- The 32-byte block of a physical address. -/
def blockBase (pa : Word) : Word := pa &&& ~~~31

/-- The tag bits compared: `pa[31 : 9+n]` (20 R170). -/
def tagBitsOf (size : Nat) (pa : Word) : BitVec 22 := pa.extractLsb' 10 22 >>> size

/-- The tag of a line. -/
def CacheSet.tagAt (c : CacheSet) (line : Nat) : Tag := Sparse.get .invalid c.tags line

/-- Write the tag of a line. -/
def CacheSet.setTag (c : CacheSet) (line : Nat) (t : Tag) : CacheSet :=
  { c with tags := Sparse.set .invalid c.tags line t }

/-- `n` data bytes from a byte offset. -/
def CacheSet.readData (c : CacheSet) (off : Nat) : Nat → List Byte
  | 0 => []
  | n + 1 => Sparse.get 0 c.data off :: CacheSet.readData c (off + 1) n

/-- The data RAM with bytes written from an offset. -/
def writeRam (d : List Host.Cell) (off : Nat) : List Byte → List Host.Cell
  | [] => d
  | b :: bs => writeRam (Sparse.set 0 d off b) (off + 1) bs

/-- Write data bytes from a byte offset. -/
def CacheSet.writeData (c : CacheSet) (off : Nat) (bs : List Byte) : CacheSet :=
  { c with data := writeRam c.data off bs }

/-- A line is valid and its tag is that of `pa` (20 R170). -/
def CacheSet.hits (c : CacheSet) (size : Nat) (va pa : Word) : Bool :=
  let t := c.tagAt (lineOf size va)
  t.valid && t.addr >>> size == tagBitsOf size pa

/-- A line becomes Invalid: V and WB are cleared, tag and data stay (47 section 2). -/
def CacheSet.invalidate (c : CacheSet) (line : Nat) : CacheSet :=
  c.setTag line { c.tagAt line with valid := false, dirty := false }

/-- Every line becomes Invalid (47 R481). -/
def CacheSet.invalidateAll (c : CacheSet) : CacheSet :=
  c.tags.foldl (fun c p => c.invalidate p.1) c

/-- The physical address of the line held at `line` (47 R484). -/
def CacheSet.lineAddress (c : CacheSet) (size line : Nat) : Word :=
  (((c.tagAt line).addr >>> size <<< size) ++ (0#10)) ||| BitVec.ofNat 32 (lineOffset line)

/-- One set of a cache; `true` is set 1. -/
def Cache.way (c : Cache) (w : Bool) : CacheSet := if w then c.set1 else c.set0

/-- Replace one set. -/
def Cache.setWay (c : Cache) (w : Bool) (x : CacheSet) : Cache :=
  if w then { c with set1 := x } else { c with set0 := x }

/-- The set an address hits in, among the sets that take part (20 R170). Where both hold it, set 0 answers: log
entry 55. -/
def Cache.hitWay (c : Cache) (on0 on1 : Bool) (size : Nat) (va pa : Word) : Option Bool :=
  if on0 && c.set0.hits size va pa then some false
  else if on1 && c.set1.hits size va pa then some true
  else none

/-! ### Which sets take part -/

/-- I-cache set 0 is an enabled cache set (20 R170). -/
def State.iOn0 (s : State) : Bool := s.cfg.icachePresent && Ccc.ie0 s.cp0.ccc
/-- I-cache set 1 is an enabled cache set and no scratchpad (20 R205). -/
def State.iOn1 (s : State) : Bool := s.iSet1 && Ccc.ie1 s.cp0.ccc && !Ccc.isr1 s.cp0.ccc
/-- D-cache set 0 likewise. -/
def State.dOn0 (s : State) : Bool := s.cfg.dcachePresent && Ccc.de0 s.cp0.ccc && !Ccc.sr0 s.cp0.ccc
/-- D-cache set 1 likewise. -/
def State.dOn1 (s : State) : Bool := s.dSet1 && Ccc.de1 s.cp0.ccc && !Ccc.sr1 s.cp0.ccc

/-- The I-cache size code. -/
def State.isize (s : State) : Nat := Ccc.isize s.cp0.ccc
/-- The D-cache size code. -/
def State.dsize (s : State) : Nat := Ccc.dsize s.cp0.ccc

/-- At least one I-cache set takes part in lookups and fills. -/
def State.iCaching (s : State) : Bool := s.iOn0 || s.iOn1
/-- At least one D-cache set takes part in lookups and fills. -/
def State.dCaching (s : State) : Bool := s.dOn0 || s.dOn1

/-- CCC.IS names the size the I-cache sets are built with (10 R63). -/
def State.iSizeBuilt (s : State) : Bool := (s.cfg.icacheSize.getD (s.cp0.ccc.extractLsb' 14 2)).toNat == s.isize
/-- CCC.DS names the size the D-cache sets are built with (10 R63). -/
def State.dSizeBuilt (s : State) : Bool := (s.cfg.dcacheSize.getD (s.cp0.ccc.extractLsb' 10 2)).toNat == s.dsize

/-- The tag the core reads: the wired one where the tag RAM is removed, which is valid and never dirty (20 R205, 10
R85, R86). -/
def wiredOr (wired : Option (BitVec 22)) (t : Tag) : Tag :=
  match wired with
  | some a => { addr := a, valid := true, dirty := false }
  | none => t

/-- A set in scratchpad mode covers an address: the tag of the indexed line is valid and is that of `pa` (20 R205). How
many lines' tags count the manual does not say: log entry 37. -/
def CacheSet.covers (c : CacheSet) (wired : Option (BitVec 22)) (size : Nat) (va pa : Word) : Bool :=
  let t := wiredOr wired (c.tagAt (lineOf size va))
  t.valid && t.addr >>> size == tagBitsOf size pa

/-- InScratchpad (20 R205): the D-cache set in scratchpad mode that covers the address; set 0 where both do (log entry
37). -/
def State.dScratch (s : State) (va pa : Word) : Option Bool :=
  if s.cfg.dcachePresent && Ccc.sr0 s.cp0.ccc && s.dcache.set0.covers s.cfg.dTag0 s.dsize va pa then some false
  else if s.dSet1 && Ccc.sr1 s.cp0.ccc && s.dcache.set1.covers s.cfg.dTag1 s.dsize va pa then some true
  else none

/-- InIScratchpad (20 R162). -/
def State.iScratch (s : State) (va pa : Word) : Bool :=
  s.iSet1 && Ccc.isr1 s.cp0.ccc && s.icache.set1.covers s.cfg.iTag1 s.isize va pa

/-- The 8-Kbyte, 4-Kbyte-page alias the spec forbids (20 R157). -/
def aliased (size : Nat) (va pa : Word) : Bool := size == 3 && va.getLsbD 12 != pa.getLsbD 12

/-- Replace one D-cache set. -/
def State.setDWay (s : State) (w : Bool) (x : CacheSet) : State := { s with dcache := s.dcache.setWay w x }
/-- Replace one I-cache set. -/
def State.setIWay (s : State) (w : Bool) (x : CacheSet) : State := { s with icache := s.icache.setWay w x }

/-- Record the set an I-cache line was last used in (10 R85, LRU). -/
def State.touchI (s : State) (line : Nat) (w : Bool) : State := { s with imru := Sparse.set false s.imru line w }

/-- The set a missing instruction line goes to: the invalid one, either if both are, else the least recently used (20
R171). -/
def State.iVictim (s : State) (line : Nat) : Bool :=
  if s.iOn0 && s.iOn1 then
    (match (s.icache.set0.tagAt line).valid, (s.icache.set1.tagAt line).valid with
     | false, false => s.env.choice.victim
     | false, true => false
     | true, false => true
     | true, true => !Sparse.get false s.imru line)
  else s.iOn1

/-- The set a missing data line goes to: the hardware's random choice (20 R172). -/
def State.dVictim (s : State) : Bool := if s.dOn0 && s.dOn1 then s.env.choice.victim else s.dOn1

/-- Invalidate the line of one set that holds a snooped address (20 R176). The address itself gives the index: a line
lies where its physical address says, also in 8-Kbyte sets (R157). -/
def CacheSet.snoop (c : CacheSet) (size : Nat) (line : BitVec 27) : CacheSet :=
  let pa : Word := line ++ (0#5)
  if c.hits size pa pa then c.invalidate (lineOf size pa) else c

/-- One snoop, gated by CCC.IIE and CCC.DIE (20 R176). -/
def State.snoop (s : State) (n : Snoop) : State :=
  let i := if n.icache && Ccc.iie s.cp0.ccc && s.cfg.icachePresent then
      { set0 := s.icache.set0.snoop s.isize n.line, set1 := s.icache.set1.snoop s.isize n.line } else s.icache
  let d := if n.dcache && Ccc.die s.cp0.ccc && s.cfg.dcachePresent then
      { set0 := s.dcache.set0.snoop s.dsize n.line, set1 := s.dcache.set1.snoop s.dsize n.line } else s.dcache
  { s with icache := i, dcache := d }

/-- Every line takes the V bit `v` gives it; tag and data stay, and an Invalid line is not dirty. -/
def CacheSet.revalidate (c : CacheSet) (v : Nat → Bool) : CacheSet :=
  (List.range 256).foldl (fun c l =>
    let t := c.tagAt l
    c.setTag l { t with valid := v l, dirty := v l && t.dirty }) c

/-- A flush of one set: an enabled cache set becomes Invalid; of the others every V bit may become any value (93 I36), also
where no set of the cache is enabled (70 R606), or stay (47 R480): log entry 36. A cache that is not built has no lines.
`base` tells the sets apart. -/
def State.flushSet (s : State) (c : CacheSet) (on built : Bool) (base : Nat) : CacheSet :=
  if on then c.invalidateAll
  else if built && s.env.choice.flushOther then c.revalidate fun l => Config.resetBit (base + l) s.tick
  else c

/-- FLUSHI's effect (47 R481). -/
def State.flushI (s : State) : State :=
  { s with icache := { set0 := s.flushSet s.icache.set0 s.iOn0 s.cfg.icachePresent 14000,
                       set1 := s.flushSet s.icache.set1 s.iOn1 s.iSet1 15000 } }

/-- FLUSHD's effect (47 R482). -/
def State.flushD (s : State) : State :=
  { s with dcache := { set0 := s.flushSet s.dcache.set0 s.dOn0 s.cfg.dcachePresent 16000,
                       set1 := s.flushSet s.dcache.set1 s.dOn1 s.dSet1 17000 } }

end Sys2Proof.Machine
end

