-- ==== Sys2Proof/Machine/Bus.lean ====
section
/-! DEFINITION. The bus side: physical memory, the ICEport, the write buffer, bus errors (20 R124, R179 to R184, 60
R570). -/

namespace Sys2Proof.Machine

/-! ### The ICEport (60 R570) -/

/-- The ICEport register an address names: 0 Rx Status and Rx Setup, 1 Rx Data, 2 Tx Status, 3 Tx Data. -/
def State.iceportReg (s : State) (pa : Word) : Option (BitVec 2) :=
  if s.cfg.iceportPresent && pa.extractLsb' 4 28 == s.cfg.iceportBase then some (pa.extractLsb' 2 2) else none

/-- A physical range touches the ICEport's sixteen bytes. -/
def State.touchesIceport (s : State) (pa : Word) (n : Nat) : Bool :=
  s.cfg.iceportPresent && overlaps pa n (s.cfg.iceportBase ++ (0#4)) 16

/-- Read an ICEport register (60 R570). -/
def State.iceportRead (s : State) (r : BitVec 2) : Word × State :=
  let u := s.uart
  if r = 0 then
    (flag 2 u.rxOverrun ||| flag 1 u.rxReady, { s with uart := { u with rxOverrun := false } })
  else if r = 1 then
    (if u.rxReady then u.rxData.zeroExtend 32 else Config.freeWord .iceport s.tick &&& 0xFF,
      { s with uart := { u with rxReady := false } })
  else if r = 2 then (flag 1 u.txReady, s)
  else (Config.freeWord .iceport s.tick &&& 0xFF, s)

/-- Write an ICEport register (60 R570). -/
def State.iceportWrite (s : State) (r : BitVec 2) (v : Word) : State :=
  let u := s.uart
  if r = 0 then { s with uart := { u with rxIntEnable := v.getLsbD 0 } }
  else if r = 3 then
    (if u.txReady then
      { s with uart := { u with txData := v.extractLsb' 0 8, txReady := false },
               out := { s.out with uartTx := some (v.extractLsb' 0 8) } }
     else s)
  else s

/-- A received byte: kept, or lost with an overrun (60 R570). -/
def Uart.receive (u : Uart) (b : Byte) : Uart :=
  if u.rxReady then { u with rxOverrun := true } else { u with rxData := b, rxReady := true }

/-- The ICEport's flags at reset; its two data bytes stay (60 R570). -/
def Uart.clear (u : Uart) : Uart := { Uart.reset with rxData := u.rxData, txData := u.txData }

/-! ### Physical memory -/

/-- Write bytes to physical memory or, a word at a time, to the ICEport (20 R124); two joined words go to their registers
in address order (log entry 39). -/
def State.physWrite (s : State) (e : WriteEntry) : State :=
  match s.iceportReg e.addr with
  | none => { s with mem := Memory.writeBytes s.mem e.addr e.bytes }
  | some r =>
    let s := s.iceportWrite r (ofBytes s.cfg.bigEndian (e.bytes.take 4))
    if e.bytes.length = 8 then
      s.iceportWrite (r + 1) (ofBytes s.cfg.bigEndian (e.bytes.drop 4))
    else s

/-- Write bytes word by word from `a`. -/
def State.physWords (s : State) (a : Word) : List Byte → State
  | b0 :: b1 :: b2 :: b3 :: bs => (s.physWrite { addr := a, bytes := [b0, b1, b2, b3] }).physWords (a + 4) bs
  | _ => s

/-- Write the 32 bytes of a cache line; words that lie on the ICEport go to its registers (47 R484). -/
def State.physLine (s : State) (pa : Word) (bs : List Byte) : State :=
  if s.touchesIceport pa bs.length then s.physWords pa bs else { s with mem := Memory.writeBytes s.mem pa bs }

/-- A bus error is latched, now or when it arrives (20 R179, 93 I44). -/
def State.latchError (s : State) (later : Bool) : State := { s with busErrPending := s.busErrPending || !later }

/-- The next write of this step ends well (20 R124). -/
def State.nextWriteGood (s : State) : Bool := !s.env.pins.errWrite || s.env.pins.goodWrites.headD false

/-- The next write of this step is never answered (20 R124, 93 I40). -/
def State.nextWriteHangs (s : State) : Bool := !s.nextWriteGood && s.env.pins.hang

/-- The environment has said how one more write ends. -/
def State.answerWrite (s : State) : State :=
  if s.env.pins.errWrite then
    { s with env := { s.env with pins := { s.env.pins with goodWrites := s.env.pins.goodWrites.drop 1 } } }
  else s

/-- A write transaction that is answered. One that ends in an error changes neither memory nor the ICEport: DESIGN
CHOICE, 20 R179 does not say (log entry 32). -/
def State.endWrite (s : State) (write : State → State) : State :=
  if s.nextWriteGood then write s.answerWrite else s.answerWrite.latchError s.env.pins.errLater

/-- A bus write from the write buffer. -/
def State.busWrite (s : State) (e : WriteEntry) : State := s.endWrite fun t => t.physWrite e

/-- A bus read of `n` bytes from `pa`, with whether it ended in an error (20 R124, R179); `later` says that the error
arrives at a later step. A read of the ICEport that ends in an error clears neither RxRDY nor RxOverrun and is not stopped
for its size: DESIGN CHOICE, 20 R179 and 60 R570 are silent (log entry 39). -/
def State.busRead (s : State) (err later : Bool) (pa : Word) (n : Nat) : Res (List Byte × Bool) :=
  if s.env.pins.hang then .fault .busHang
  else if err then .ok (Memory.readBytes s.mem pa n, true) (s.latchError later)
  else if s.touchesIceport pa n then
    (if n = 4 && aligned 4 pa then
      let r := s.iceportRead (pa.extractLsb' 2 2)
      .ok (toBytes s.cfg.bigEndian 4 r.1, false) r.2
     else .refuse .iceportNotWord)
  else .ok (Memory.readBytes s.mem pa n, false) s

/-- The bytes of a fetch: what the bus gave, or any value after an error (20 R179). -/
def State.datum (s : State) (r : List Byte × Bool) : List Byte :=
  if r.2 then toBytes s.cfg.bigEndian r.1.length (Config.freeWord .busError s.tick) else r.1

/-! ### The write buffer (20 R180, R181) -/

/-- The `n` oldest entries leave the buffer, as far as the bus answers. -/
def State.drain (s : State) : Nat → State
  | 0 => s
  | n + 1 =>
    match s.wbuf with
    | [] => s
    | e :: es => if s.nextWriteHangs then s else State.drain ({ s with wbuf := es }.busWrite e) n

/-- Every entry leaves the buffer (20 R182). -/
def State.drainAll (s : State) : State := s.drain s.wbuf.length

/-- The core waits until the `n` oldest entries have left the buffer; the wait never ends if one is never answered. -/
def State.awaitDrain (s : State) (n : Nat) : Res Unit :=
  let t := s.drain n
  if t.wbuf.length = s.wbuf.length - n then .ok () t else .fault .busHang

/-- How many of the oldest entries must leave before the range is free of buffered stores. -/
def pendingUpTo (pa : Word) (n : Nat) : List WriteEntry → Nat
  | [] => 0
  | e :: es =>
    let k := pendingUpTo pa n es
    if k ≠ 0 then k + 1 else if overlaps pa n e.addr e.bytes.length then 1 else 0

/-- Order a bus read against the buffer (20 R181): all stores first when EWP is 1, else those up to the last that
overlaps it. -/
def State.orderRead (s : State) (pa : Word) (n : Nat) : Res Unit :=
  s.awaitDrain (if Ccc.ewp s.cp0.ccc then s.wbuf.length else pendingUpTo pa n s.wbuf)

/-- Two word stores to the halves of one doubleword join (20 R180). -/
def mergeEntry (last new : WriteEntry) : Option WriteEntry :=
  if last.bytes.length = 4 && new.bytes.length = 4 then
    (if aligned 8 last.addr && new.addr == last.addr + 4 then
      some { addr := last.addr, bytes := last.bytes ++ new.bytes }
     else if aligned 8 new.addr && last.addr == new.addr + 4 then
      some { addr := new.addr, bytes := new.bytes ++ last.bytes }
     else none)
  else none

/-- Append a store, joining it with the youngest entry where that is possible. -/
def appendEntry (new : WriteEntry) : List WriteEntry → List WriteEntry
  | [] => [new]
  | [e] => match mergeEntry e new with
    | some m => [m]
    | none => [e, new]
  | e :: es => e :: appendEntry new es

/-- The write burst of a line (47 R484); the answer says whether it ended well. -/
def State.busLine (s : State) (pa : Word) (bs : List Byte) : Res Bool :=
  if s.nextWriteHangs then .fault .busHang else .ok s.nextWriteGood (s.endWrite fun t => t.physLine pa bs)

/-- A store enters the buffer; a full buffer makes room first (20 R180). -/
def State.push (s : State) (pa : Word) (bs : List Byte) : Res Unit :=
  if s.touchesIceport pa bs.length && !(decide (bs.length = 4) && aligned 4 pa) then .refuse .iceportNotWord
  else
    let w := appendEntry { addr := pa, bytes := bs } s.wbuf
    if w.length ≤ 4 then .ok () { s with wbuf := w }
    else (s.awaitDrain 1).andThen fun _ s => .ok () { s with wbuf := appendEntry { addr := pa, bytes := bs } s.wbuf }

end Sys2Proof.Machine
end

