-- ==== Sys2Proof/Machine/Access.lean ====
section
/-! DEFINITION. Loads, stores and fetches (20 R160 to R162), with the debug checks (60 R560 to R562, R564), the D-cache
and I-cache (20 R171 to R173), the isolated caches (R200 to R203), scratchpads (R205), the OCAbus (R123) and the TLB
instructions next to a data access (70 R630). -/

namespace Sys2Proof.Machine

/-! ### Debug events (60 R560 to R562) -/

/-- Set status bits of DCS (10 R40: hardware only sets them). -/
def State.setDcs (s : State) (bits : Word) : State :=
  { s with cp0 := { s.cp0 with dcs := s.cp0.dcs ||| bits } }

/-- A Debug event is due for the instruction of this step. -/
def State.debugIsDue (s : State) : State := { s with out := { s.out with debugDue := true } }

/-- DebugOn (60 R560). -/
def State.debugOn (s : State) : Bool :=
  s.cp0.dcs.getLsbD 23 &&
    ((s.userMode && s.cp0.dcs.getLsbD 30) || (s.kernelMode && s.cp0.dcs.getLsbD 29))

/-- The PC match of 10 R68; bits [1:0] take no part. -/
def State.pcMatch (s : State) (va : Word) : Bool := ((va ^^^ s.cp0.bpc) &&& s.cp0.bpcm) &&& 0xFFFFFFFC == 0

/-- The data match of 10 R69. -/
def State.dataMatch (s : State) (va : Word) : Bool := (va ^^^ s.cp0.bda) &&& s.cp0.bdam == 0

/-- A program-counter breakpoint event at `va` (60 R561). -/
def State.pcEvent (s : State) (va : Word) : Bool := s.debugOn && s.cp0.dcs.getLsbD 24 && s.pcMatch va

/-- DebugPCCheck (60 R561). -/
def State.debugPcCheck (s : State) (va : Word) : State :=
  if s.pcEvent va then (s.setDcs 0x3).debugIsDue else s

/-- A data breakpoint event at `va` (60 R562). -/
def State.dataEvent (s : State) (va : Word) (store : Bool) : Bool :=
  s.debugOn && s.cp0.dcs.getLsbD 25 && s.dataMatch va && (if store then s.cp0.dcs.getLsbD 27 else s.cp0.dcs.getLsbD 26)

/-- DebugDataCheck (60 R562). -/
def State.debugDataCheck (s : State) (va : Word) (store : Bool) : State :=
  if s.dataEvent va store then
    let t := (s.setDcs (if store then 0x15 else 0xD)).debugIsDue
    { t with out := { t.out with dataBits := if store then 0x15 else 0xD } }
  else s

/-- A Debug event that is due is taken (60 R564). -/
def State.debugTaken (s : State) : Bool := s.cp0.dcs.getLsbD 31 && (s.r3000 || !s.exl)

/-! ### InstrFetch (20 R162) -/

/-- Fill the I-cache line of an address (20 R171). -/
def State.iFill (s : State) (va pa : Word) : Res Bool :=
  let line := lineOf s.isize va
  let w := s.iVictim line
  (s.busRead s.env.pins.errFetch false (blockBase pa) 32).andThen fun r s =>
    if r.2 then .ok true (s.setIWay w ((s.icache.way w).invalidate line))
    else .ok false ((s.setIWay w (((s.icache.way w).writeData (lineOffset line) r.1).setTag line
      { addr := pa.extractLsb' 10 22, valid := true, dirty := false })).touchI line w)

/-- A cached fetch (20 R171). -/
def State.cachedFetch (s : State) (va pa : Word) : Res (List Byte) :=
  let line := lineOf s.isize va
  match s.icache.hitWay s.iOn0 s.iOn1 s.isize va pa with
  | some w => .ok ((s.icache.way w).readData (offsetOf s.isize va) 4) (s.touchI line w)
  | none =>
    let w := s.iVictim line
    (s.iFill va pa).andThen fun err s =>
      if err then .ok (s.datum (List.replicate 4 0, true)) s
      else .ok ((s.icache.way w).readData (offsetOf s.isize va) 4) s

/-- The four bytes of the word at `pa` in the doubleword that holds it (20 R133). -/
def pickWord (pa : Word) (r : List Byte × Bool) : List Byte × Bool :=
  (if pa.getLsbD 2 then r.1.drop 4 else r.1.take 4, r.2)

/-- An uncached fetch reads the aligned doubleword (20 R133, R162). -/
def State.uncachedFetch (s : State) (pa : Word) : Res (List Byte) :=
  (s.busRead s.env.pins.errFetch false (pa &&& ~~~7) 8).andThen fun r s => .ok (s.datum (pickWord pa r)) s

/-- The fetch without its breakpoint check. Where no set of the I-cache takes part (a scratchpad set alone is enabled) a
fetch outside the scratchpad goes to memory: log entry 34. -/
def State.fetchWord (s : State) (va : Word) : Res Word :=
  (s.translate va .fetch (Ccc.isc s.cp0.ccc)).andThen fun p s =>
    (if s.iScratch va p.1 then
       (if s.iSizeBuilt then .ok (s.icache.set1.readData (offsetOf s.isize va) 4) s else .refuse .cacheSizeMismatch)
     else if p.2 = .uncached || !s.iCaching then s.uncachedFetch p.1
     else if !s.iSizeBuilt then .refuse .cacheSizeMismatch
     else if aliased s.isize va p.1 then .refuse .cacheAlias
     else s.cachedFetch va p.1).andThen fun bs s => .ok (ofBytes s.cfg.bigEndian bs) s

/-- InstrFetch (20 R162). -/
def State.fetch (s : State) (va : Word) : Res Word := (s.debugPcCheck va).fetchWord va

/-- The word at an address as a fetch would see it, without the fetch's effects. -/
def State.peek (s : State) (va : Word) : Option Word :=
  match s.fetchWord va with
  | .ok w _ => some w
  | .raise _ _ => none
  | .abandon _ => none
  | .fault _ => none
  | .refuse _ => none

/-! ### Isolated caches (20 R200 to R203) -/

/-- The preconditions of the maintenance modes the machine can see: running in kseg1, interrupts disabled. -/
def State.isolateReady (s : State) : Bool := inKseg1 s.pc && !s.intEnabled

/-- The enable bits of the four sets: I-cache 0, 1, D-cache 0, 1. -/
def State.ramEnables (s : State) : Bool × Bool × Bool × Bool :=
  (s.cfg.icachePresent && Ccc.ie0 s.cp0.ccc, s.iSet1 && Ccc.ie1 s.cp0.ccc,
    s.cfg.dcachePresent && Ccc.de0 s.cp0.ccc, s.dSet1 && Ccc.de1 s.cp0.ccc)

/-- The one enabled set with its size code and its wired tag, if exactly one is enabled. -/
def State.ramSelected (s : State) : Option (CacheSet × Nat × Option (BitVec 22)) :=
  match s.ramEnables with
  | (true, false, false, false) => some (s.icache.set0, s.isize, none)
  | (false, true, false, false) => some (s.icache.set1, s.isize, s.cfg.iTag1)
  | (false, false, true, false) => some (s.dcache.set0, s.dsize, s.cfg.dTag0)
  | (false, false, false, true) => some (s.dcache.set1, s.dsize, s.cfg.dTag1)
  | _ => none

/-- The word a Tag Test load returns (20 R202). -/
def tagWord (t : Tag) (va : Word) (ignored : BitVec 7) : Word :=
  t.addr ++ ignored ++ BitVec.ofBool (t.addr == va.extractLsb' 10 22) ++ BitVec.ofBool t.valid ++ BitVec.ofBool t.dirty

/-- A load of `n` bytes from `start` while the caches are isolated. Tag Test gives a load of less than a word the
addressed bytes of the tag word: log entry 38. -/
def State.isolatedLoad (s : State) (mode va start : Word) (n : Nat) : List Byte :=
  let free := toBytes s.cfg.bigEndian n (Config.freeWord .isolated s.tick)
  match s.ramSelected with
  | none => free
  | some (c, size, wired) =>
    if Ccc.inv mode then free
    else if Ccc.tag mode then
      ((toBytes s.cfg.bigEndian 4 (tagWord (wiredOr wired (c.tagAt (lineOf size va))) va s.env.choice.tagBits)).drop
        (byteIndex start)).take n
    else c.readData (offsetOf size start) n

/-- What a store does to one set while the caches are isolated. In Invalidate mode every store does what SW does: log
entry 38. -/
def isolatedStoreSet (c : CacheSet) (size : Nat) (isD : Bool) (mode ccc va start : Word) (bs : List Byte) : CacheSet :=
  if Ccc.inv mode then c.invalidate (lineOf size va)
  else if Ccc.tag mode then
    c.setTag (lineOf size va) { addr := va.extractLsb' 10 22, valid := true, dirty := isD && Ccc.wb ccc }
  else c.writeData (offsetOf size start) bs

/-- Data Test mode: neither TAG nor INV (20 R200). -/
def dataTest (mode : Word) : Bool := !Ccc.tag mode && !Ccc.inv mode

/-- A store while the caches are isolated: every enabled set (20 R200); but the data of I-cache set 1 cannot be written
while it is a scratchpad (R205). -/
def State.isolatedStore (s : State) (mode va start : Word) (bs : List Byte) : State :=
  let f (on : Bool) (c : CacheSet) (size : Nat) (isD : Bool) : CacheSet :=
    if on then isolatedStoreSet c size isD mode s.cp0.ccc va start bs else c
  let (i0, i1, d0, d1) := s.ramEnables
  { s with
    icache := { set0 := f i0 s.icache.set0 s.isize false,
                set1 := f (i1 && !(Ccc.isr1 s.cp0.ccc && dataTest mode)) s.icache.set1 s.isize false }
    dcache := { set0 := f d0 s.dcache.set0 s.dsize true, set1 := f d1 s.dcache.set1 s.dsize true } }

/-- Why an access while the caches are isolated cannot go on: a precondition does not hold (93 I31), or an enabled set
has another size than CCC names (93 I30). -/
def State.isolateStop (s : State) : Option Refusal :=
  let (i0, i1, d0, d1) := s.ramEnables
  if !s.isolateReady then some .isolatePrecondition
  else if ((i0 || i1) && !s.iSizeBuilt) || ((d0 || d1) && !s.dSizeBuilt) then some .cacheSizeMismatch
  else none

/-! ### The D-cache (20 R172, R173) -/

/-- Write a dirty line back, then it is clean; an error invalidates it (20 R175, R179, 47 R484). Buffered stores that
overlap the line go out first, the burst overtakes the others: log entry 33. -/
def State.writeBackLine (s : State) (w : Bool) (line : Nat) : Res Unit :=
  let c := s.dcache.way w
  let t := c.tagAt line
  if t.valid && t.dirty then
    let pa := c.lineAddress s.dsize line
    (s.awaitDrain (pendingUpTo pa 32 s.wbuf)).andThen fun _ s =>
      (s.busLine pa (c.readData (lineOffset line) 32)).andThen fun good s =>
        .ok () (s.setDWay w (if good then c.setTag line { t with dirty := false } else c.invalidate line))
  else .ok () s

/-- Fill the D-cache line of an address (20 R172); the answer says whether the burst ended in an error. -/
def State.dFill (s : State) (va pa : Word) : Res Bool :=
  let line := lineOf s.dsize va
  let w := s.dVictim
  (s.writeBackLine w line).andThen fun _ s =>
    (s.orderRead (blockBase pa) 32).andThen fun _ s =>
      (s.busRead s.env.pins.errRead s.env.pins.errLater (blockBase pa) 32).andThen fun r s =>
        if r.2 then .ok true (s.setDWay w ((s.dcache.way w).invalidate line))
        else .ok false (s.setDWay w (((s.dcache.way w).writeData (lineOffset line) r.1).setTag line
          { addr := pa.extractLsb' 10 22, valid := true, dirty := false }))

/-- A cached load of `n` bytes at `pa` (20 R172); no bytes where the line fill ends in an error. -/
def State.cachedLoad (s : State) (va pa : Word) (n : Nat) : Res (Option (List Byte)) :=
  match s.dcache.hitWay s.dOn0 s.dOn1 s.dsize va pa with
  | some w => .ok (some ((s.dcache.way w).readData (offsetOf s.dsize va) n)) s
  | none =>
    let w := s.dVictim
    (s.dFill va pa).andThen fun err s =>
      .ok (if err then none else some ((s.dcache.way w).readData (offsetOf s.dsize va) n)) s

/-- An uncached load (20 R160, R181); no bytes where the read ends in an error. -/
def State.uncachedLoad (s : State) (pa : Word) (n : Nat) : Res (Option (List Byte)) :=
  (s.orderRead pa n).andThen fun _ s =>
    (s.busRead s.env.pins.errRead s.env.pins.errLater pa n).andThen fun r s => .ok (if r.2 then none else some r.1) s

/-- A store that hits the D-cache updates the line; in WriteBack mode the line becomes dirty (20 R173). -/
def State.storeLine (s : State) (w : Bool) (va : Word) (bs : List Byte) (dirty : Bool) : State :=
  let c := (s.dcache.way w).writeData (offsetOf s.dsize va) bs
  let line := lineOf s.dsize va
  s.setDWay w (if dirty then c.setTag line { c.tagAt line with dirty := true } else c)

/-- A cached store (20 R161, R173). -/
def State.cachedStore (s : State) (va pa : Word) (bs : List Byte) (back : Bool) : Res Unit :=
  match s.dcache.hitWay s.dOn0 s.dOn1 s.dsize va pa with
  | some w => if back then .ok () (s.storeLine w va bs true) else (s.storeLine w va bs false).push pa bs
  | none => s.push pa bs

/-! ### A TLB instruction next to the access (70 R630) -/

/-- With another ASID in EntryHi. -/
def State.withAsid (s : State) (asid : BitVec 8) : State :=
  { s.endHazards [.entryHi] with cp0 := { s.cp0 with entryHi := merge 0xFF s.cp0.entryHi (asid.zeroExtend 32) } }

/-- With TLB entry `i` replaced. -/
def State.setEntry (s : State) (i : BitVec 5) (e : TlbEntry) : State := { s with tlb := s.tlb.set i.toNat e (i.isLt) }

/-- What the TLB instruction just before changed, undone. -/
def State.beforeLastTlb (s : State) : State :=
  match s.tlbRecent with
  | none => s
  | some (.wrote i old) => s.setEntry i old
  | some (.read asid) => s.withAsid asid

/-- What the TLB instruction just behind will change, done. -/
def State.afterNextTlb (s : State) : State :=
  if s.copUsable 0 then
    match (s.peek s.npc).map decode with
    | some (.instr .tlbwi) =>
      if s.tlbIndex.toNat ≤ s.cfg.tlbLast.toNat then s.setEntry s.tlbIndex s.entryOfRegs else s
    | some (.instr .tlbwr) =>
      match s.randomAt (s.tick + 1) with
      | some i => s.setEntry i s.entryOfRegs
      | none => s
    | some (.instr .tlbr) =>
      if s.tlbIndex.toNat ≤ s.cfg.tlbLast.toNat then s.withAsid (s.tlb[s.tlbIndex.toNat]'(s.tlbIndex.isLt)).asid else s
    | _ => s
  else s

/-- The TLB and the ASID as a load or store sees them: one next to a TLB instruction sees them before or after it. -/
def State.tlbSeen (s : State) : State :=
  let t := if s.env.choice.staleTlb then s.beforeLastTlb else s
  if s.env.choice.earlyTlb && t.tlbEnabled then t.afterNextTlb else t

/-! ### MemRead and MemWrite (20 R160, R161) -/

/-- The checks of a data access, in the order of 20 R144 and R160: alignment, translation, data breakpoint. The
answer is the physical address of the access and its attribute. A Debug exception that is taken comes before the access
(60 R562, 40 R270). -/
def State.dataAddress (s : State) (va : Word) (align : Nat) (store : Bool) : Res (Word × Attr) :=
  let k : Access := if store then .store else .load
  if !aligned align va then .raise (addressError k va) s
  else ((s.tlbSeen.translate va k (Ccc.isc s.testMode)).inState s).andThen fun r s =>
    if s.dataEvent va store && s.debugTaken then .abandon (s.debugDataCheck va store)
    else .ok r (s.debugDataCheck va store)

/-- The bytes of a load of `n` bytes whose lowest address is `start`, in the word of `va` (20 R160); none where the bus
ends the read in an error. Where no set of the D-cache takes part (the enabled sets are scratchpads) an access outside
them goes to memory: log entry 34. -/
def State.readData (s : State) (va start : Word) (n : Nat) (pa : Word) (attr : Attr) : Res (Option (List Byte)) :=
  match s.env.pins.oca with
  | some v => .ok (some (toBytes s.cfg.bigEndian n v)) s
  | none =>
    if Ccc.isc s.testMode then
      (match s.isolateStop with
       | some r => .refuse r
       | none => .ok (some (s.isolatedLoad s.testMode va start n)) s)
    else match s.dScratch start pa with
    | some w =>
      if s.dSizeBuilt then .ok (some ((s.dcache.way w).readData (offsetOf s.dsize start) n)) s
      else .refuse .cacheSizeMismatch
    | none =>
      if attr = .uncached || !s.dCaching then s.uncachedLoad pa n
      else if !s.dSizeBuilt then .refuse .cacheSizeMismatch
      else if aliased s.dsize va pa then .refuse .cacheAlias
      else s.cachedLoad start pa n

/-- The physical address of `start`, which lies in the word of `va`. -/
def physOfStart (pa start : Word) : Word := wordBase pa ||| (start &&& 3)

/-- MemRead (20 R160); no datum where the bus ends the read in an error. -/
def State.load (s : State) (va start : Word) (align n : Nat) : Res (Option Word × Word × Attr) :=
  (s.dataAddress va align false).andThen fun p s =>
    (s.readData va start n (physOfStart p.1 start) p.2).andThen fun bs s =>
      .ok (bs.map (ofBytes s.cfg.bigEndian), p) s

/-- What a load gives that makes `f` of its datum: any value at all after an error (20 R179, 93 I12). -/
def State.loaded (s : State) (f : Word → Word) : Option Word → Word
  | some v => f v
  | none => Config.freeWord .busError s.tick

/-- The store itself, after the checks (20 R161). -/
def State.writeData (s : State) (va start : Word) (bs : List Byte) (pa : Word) (attr : Attr) : Res Unit :=
  match s.env.pins.oca with
  | some _ => .ok () { s with out := { s.out with ocaStore := some (start, bs) } }
  | none =>
    if Ccc.isc s.testMode then
      (match s.isolateStop with
       | some r => .refuse r
       | none => .ok () (s.isolatedStore s.testMode va start bs))
    else match s.dScratch start pa with
    | some w => if s.dSizeBuilt then .ok () (s.storeLine w start bs false) else .refuse .cacheSizeMismatch
    | none =>
      if attr = .uncached || !s.dCaching then s.push pa bs
      else if !s.dSizeBuilt then .refuse .cacheSizeMismatch
      else if aliased s.dsize va pa then .refuse .cacheAlias
      else s.cachedStore start pa bs (attr = .writeBack)

/-- MemWrite (20 R161) of the bytes of `v`. -/
def State.store (s : State) (va start : Word) (align n : Nat) (v : Word) : Res Unit :=
  (s.dataAddress va align true).andThen fun p t =>
    t.writeData va start (toBytes s.cfg.bigEndian n v) (physOfStart p.1 start) p.2

end Sys2Proof.Machine
end

