-- ==== Sys2Proof/Machine/Ops.lean ====
section
/-! DEFINITION. The named operations the meanings share: sequencing (43 R370), the CP0 registers (46 R461, R470), the
TLB writes (46 R464), taking an exception and returning from one (60 R540 to R547), the resets (60 R543 to R545). -/

namespace Sys2Proof.Machine

/-! ### Sequencing (43 R370) -/

/-- "Anything else": the next instruction follows. -/
def State.advance (s : State) : State :=
  { s with pc := s.npc, npc := s.npc + 4, inSlot := false, taken := false, slotOfJr := false, tlbRecent := none }

/-- The instruction of `s` ends with a transfer to `target` after the delay slot. -/
def State.transfer (s : State) (target : Word) (viaRegister : Bool) : State :=
  { s with pc := s.npc, npc := target, inSlot := true, taken := true, slotOfJr := viaRegister, tlbRecent := none }

/-- A conditional branch that is not taken: the next instruction still is a delay slot. -/
def State.fallThrough (s : State) : State :=
  { s with pc := s.npc, npc := s.npc + 4, inSlot := true, taken := false, slotOfJr := false, tlbRecent := none }

/-- A Branch Likely that is not taken: the slot is cancelled (R373). -/
def State.annul (s : State) : State :=
  { s with pc := s.npc + 4, npc := s.npc + 8, inSlot := false, taken := false, slotOfJr := false, tlbRecent := none }

/-- The trace event of a jump or branch (60 R563): DCS.T and DCS.DB; the target owes a Debug event if it is taken. -/
def State.traceTransfer (s : State) (isTaken : Bool) : State :=
  if s.debugOn && s.cp0.dcs.getLsbD 28 then
    { s.setDcs 0x21 with trace := if isTaken then .slot else s.trace }
  else s

/-- A branch sets DCS.PC and DCS.DB when its target is in the breakpoint range, taken or not; no event is due for it (60
R561). A jump does not: log entry 42. -/
def State.targetCheck (s : State) (target : Word) : State :=
  if s.pcEvent target then s.setDcs 0x3 else s

/-! ### The CP0 registers (10 R30 to R72, 46 R461, R470) -/

/-- PRId (10 R60). -/
def Config.prid (c : Config) : Word := (0#16) ++ c.pridLimp ++ c.pridUimp ++ c.pridLrev ++ c.pridUrev

/-- Cause as MFC0 reads it: IP[7:2] are live (10 R55). -/
def State.causeRead (s : State) : Word := s.cp0.cause ||| ((s.ip.extractLsb' 2 6).zeroExtend 32 <<< 10)

/-- Status as MFC0 reads it: bit 5 is reserved in R4000 mode (10 R46, R48). -/
def State.statusRead (s : State) : Word := if s.r3000 then s.cp0.status else s.cp0.status &&& 0xFFFFFFDF

/-- CCC as MFC0 reads it: TE is 0 without a TLB (10 R63). -/
def State.cccRead (s : State) : Word := if s.cfg.tlbPresent then s.cp0.ccc else s.cp0.ccc &&& 0xFFFFFFBF

/-- The value of Random, if its range is not empty (10 R35, 93 I27). -/
def State.randomIndex (s : State) : Option (BitVec 5) :=
  let r := s.cp0.random.extractLsb' 0 5
  if decide ((s.cp0.wired.extractLsb' 0 5).toNat ≤ r.toNat) && decide (r.toNat ≤ s.cfg.tlbLast.toNat) then some r else none

/-- A register of the MMU block, or any value where there is none (10 R33). -/
def State.mmuReg (s : State) (v : Word) : Word := if s.cfg.tlbPresent then v else Config.freeWord .cp0 s.tick

/-- CP0Read (46 R461). -/
def State.cp0Read (s : State) (n : BitVec 5) : Res Word :=
  match n with
  | 0#5 => .ok (s.mmuReg s.cp0.index) s
  | 1#5 =>
    if s.cfg.tlbPresent then
      (match s.randomIndex with
       | some r => .ok (r.zeroExtend 32) s
       | none => .refuse .wiredRange)
    else .ok (Config.freeWord .cp0 s.tick) s
  | 2#5 => .ok (s.mmuReg s.cp0.entryLo) s
  | 4#5 => .ok (s.mmuReg s.cp0.context) s
  | 5#5 => .ok (s.mmuReg s.cp0.pageMask) s
  | 6#5 => .ok (s.mmuReg s.cp0.wired) s
  | 7#5 => .ok s.cp0.dcs s
  | 8#5 => .ok s.cp0.badVAddr s
  | 9#5 => .ok s.cp0.count s
  | 10#5 => .ok (s.mmuReg s.cp0.entryHi) s
  | 11#5 => .ok s.cp0.compare s
  | 12#5 => .ok s.statusRead s
  | 13#5 => .ok s.causeRead s
  | 14#5 => .ok s.cp0.epc s
  | 15#5 => .ok (Config.prid s.cfg) s
  | 16#5 => .ok s.cccRead s
  | 17#5 => .ok s.cp0.llAddr s
  | 18#5 => .ok s.cp0.bpc s
  | 19#5 => .ok s.cp0.bda s
  | 20#5 => .ok s.cp0.bpcm s
  | 21#5 => .ok s.cp0.bdam s
  | 23#5 => .ok s.cp0.rotate s
  | 24#5 => .ok s.cp0.cmask s
  | 30#5 => .ok s.cp0.errorEpc s
  | _ => .ok (Config.freeWord .cp0 s.tick) s

/-- MTC0 to a register of the MMU block has no effect where there is none (10 R33). -/
def State.ifMmu (s : State) (f : State → State) : State := if s.cfg.tlbPresent then f s else s

/-- MTC0 to EntryHi, which purges the instruction TLB (10 R43, R81). -/
def State.setEntryHi (s : State) (v : Word) : State :=
  { s with cp0 := { s.cp0 with entryHi := v &&& 0xFFFFF0FF }, itlb := [] }

/-- MTC0 to Wired, which moves Random to its upper bound (10 R39). -/
def State.setWired (s : State) (v : Word) : State :=
  { s with cp0 := { s.cp0 with wired := v &&& 0x1F, random := s.cfg.tlbLast.zeroExtend 32 } }

/-- The Status bits MTC0 writes: bit 5 only in R3000 mode (46 R470, 10 R46). -/
def State.statusMask (s : State) : Word := if s.r3000 then 0xF050FF3F else 0xF050FF1F

/-- MTC0 to Status; a change of CU opens a hazard (70 R631). -/
def State.setStatus (s : State) (v : Word) : State :=
  let new := merge s.statusMask s.cp0.status v
  let s' := { s with cp0 := { s.cp0 with status := new } }
  if new.extractLsb' 28 4 = s.cp0.status.extractLsb' 28 4 then s' else s'.noteHazard .status s.cp0.status 5

/-- MTC0 to CCC; a change of IsC, TAG or INV opens a hazard (70 R635). -/
def State.setCcc (s : State) (v : Word) : State :=
  let new := v &&& 0x17FFFFFF
  let s' := { s with cp0 := { s.cp0 with ccc := new } }
  if new.extractLsb' 0 3 = s.cp0.ccc.extractLsb' 0 3 then s' else s'.noteHazard .ccc s.cp0.ccc 3

/-- Why an MTC0 of `v` to CCC cannot go on (10 R63, 93 I30): CMP is cleared after it has been set, or IS or DS is not the
size a cache is built with. -/
def State.cccStop (s : State) (v : Word) : Option Refusal :=
  let t := s.setCcc v
  if Ccc.cmp s.cp0.ccc && !Ccc.cmp v then some .cmpCleared
  else if (s.cfg.icachePresent && !t.iSizeBuilt) || (s.cfg.dcachePresent && !t.dSizeBuilt) then some .cacheSizeMismatch
  else none

/-- CP0Write (46 R470). -/
def State.cp0Write (s : State) (n : BitVec 5) (v : Word) : State :=
  match n with
  | 0#5 => s.ifMmu fun s =>
      ({ s with cp0 := { s.cp0 with index := v &&& 0x8000001F } }).noteHazard .index s.cp0.index 3
  | 2#5 => s.ifMmu fun s =>
      ({ s with cp0 := { s.cp0 with entryLo := v &&& 0x03FFFFFF } }).noteHazard .entryLo s.cp0.entryLo 3
  | 4#5 => s.ifMmu fun s => { s with cp0 := { s.cp0 with context := merge 0xFFC00000 s.cp0.context v } }
  | 5#5 => s.ifMmu fun s =>
      ({ s with cp0 := { s.cp0 with pageMask := v &&& 0x2000 } }).noteHazard .pageMask s.cp0.pageMask 3
  | 6#5 => s.ifMmu fun s => s.setWired v
  | 7#5 => { s with cp0 := { s.cp0 with dcs := v &&& 0xFF80003F } }
  | 9#5 => { s with cp0 := { s.cp0 with count := v } }
  | 10#5 => s.ifMmu fun s => (s.setEntryHi v).noteHazard .entryHi s.cp0.entryHi 3
  | 11#5 => { s with cp0 := { s.cp0 with compare := v }, timerPending := false }
  | 12#5 => s.setStatus v
  | 13#5 => { s with cp0 := { s.cp0 with cause := merge 0x300 s.cp0.cause v } }
  | 14#5 => ({ s with cp0 := { s.cp0 with epc := v &&& 0xFFFFFFFC } }).noteHazard .epc s.cp0.epc 7
  | 16#5 => s.setCcc v
  | 17#5 => { s with cp0 := { s.cp0 with llAddr := v &&& 0xFFFFFFFC } }
  | 18#5 => { s with cp0 := { s.cp0 with bpc := v &&& 0xFFFFFFFC } }
  | 19#5 => { s with cp0 := { s.cp0 with bda := v } }
  | 20#5 => { s with cp0 := { s.cp0 with bpcm := v &&& 0xFFFFFFFC } }
  | 21#5 => { s with cp0 := { s.cp0 with bdam := v } }
  | 23#5 => { s with cp0 := { s.cp0 with rotate := v &&& 0x1F } }
  | 24#5 => { s with cp0 := { s.cp0 with cmask := v &&& 0x1F } }
  | 30#5 => ({ s with cp0 := { s.cp0 with errorEpc := v &&& 0xFFFFFFFC } }).noteHazard .errorEpc s.cp0.errorEpc 7
  | _ => s

/-! ### The TLB array (46 R463 to R466) -/

/-- EntryHi of an entry (10 R80). -/
def TlbEntry.hi (e : TlbEntry) : Word := e.vpn ++ (0#4) ++ e.asid

/-- EntryLo of an entry (10 R80). -/
def TlbEntry.lo (e : TlbEntry) : Word :=
  (0#6) ++ e.pfn ++ e.alg ++ BitVec.ofBool e.dirty ++ BitVec.ofBool e.valid ++ BitVec.ofBool e.isGlobal

/-- PageMask of an entry (10 R80). -/
def TlbEntry.mask (e : TlbEntry) : Word := flag 0x2000 e.big

/-- Write TLB entry `i` from the registers; the next instruction may still see the old one (70 R630). -/
def State.writeTlb (s : State) (i : BitVec 5) : State :=
  { s.setEntry i s.entryOfRegs with tlbRecent := some (.wrote i (s.tlb[i.toNat]'(i.isLt))) }

/-! ### Return from exception (46 R467, R468, 60 R547) -/

/-- RFE's effect on Status and LLbit (46 R467). The bus lock stays as it is: log entry 46. -/
def State.popMode (s : State) : State :=
  { s with cp0 := { s.cp0 with status := merge 0xF s.cp0.status (s.cp0.status >>> 2) }, llbit := false }

/-- ERET's effect on Status and LLbit (46 R468): ERL is cleared if set, else EXL. The bus lock stays as it is: log entry
46. -/
def State.leaveLevel (s : State) : State :=
  { s with
    cp0 := { s.cp0 with
      status := if s.erl then s.cp0.status &&& 0xFFFFFFFB else s.cp0.status &&& 0xFFFFFFFD }
    llbit := false }

/-- Where ERET goes (46 R468), seen through the hazards of EPC and ErrorEPC. -/
def State.eretTarget (s : State) : Word :=
  if s.erl then s.seen .errorEpc s.cp0.errorEpc else s.seen .epc s.cp0.epc

/-- Control continues at `target` with nothing pending: no delay slot, no trace, and no wait, also behind an ERET (log
entry 21). -/
def State.goTo (s : State) (target : Word) : State :=
  { s with pc := target, npc := target + 4, inSlot := false, taken := false, slotOfJr := false, waiting := false,
           waitSlip := 0, tlbRecent := none, trace := .idle }

/-- The return from an exception (46 R468). -/
def State.returnFromException (s : State) : State := (s.leaveLevel).goTo s.eretTarget

/-! ### Taking an exception (60 R540) -/

/-- ExcCode (10 R54). -/
def Exc.code : Exc → BitVec 5
  | .int => 0
  | .mod _ => 1
  | .tlbRefill store _ => if store then 3 else 2
  | .tlbInvalid store _ => if store then 3 else 2
  | .adel _ => 4
  | .ades _ => 5
  | .bus => 6
  | .sys => 8
  | .bp => 9
  | .ri => 10
  | .cpu _ => 11
  | .ov => 12
  | .tr => 13
  | .fpe => 15

/-- Cause.CE: the unit of a CpU, any value otherwise (60 R540 d). -/
def State.causeUnit (s : State) : Exc → BitVec 2
  | .cpu z => z
  | _ => s.env.choice.ce

/-- The instruction words the pipeline may have begun behind the current one (60 R503). A word whose fetch would fail in
this step is not among them (log entry 14). -/
def State.followers (s : State) : List Word :=
  [s.peek (s.pc + 4), s.peek (s.pc + 8), s.peek (s.pc + 12), s.peek (s.pc + 16)].reduceOption

/-- A word that writes HI or LO. -/
def wordWritesHiLo (w : Word) : Bool :=
  match decode w with
  | .instr i => i.writesHiLo
  | _ => false

/-- HI and LO may have been altered by an instruction behind the one that is aborted (60 R503). -/
def State.leakHiLo (s : State) : State :=
  match s.env.choice.leakHiLo with
  | none => s
  | some (h, l) => if s.mduUsable && s.followers.any wordWritesHiLo then s.setHiLo h l else s

/-- Context and EntryHi with a failing page, EntryLo undefined, the instruction TLB purged (60 R521). -/
def State.recordPage (s : State) (badVpn vpn : BitVec 20) : State :=
  { s.endHazards [.entryHi, .entryLo] with
    cp0 := { s.cp0 with
      context := merge 0x003FFFFC s.cp0.context (badVpn.zeroExtend 32 <<< 2)
      entryHi := merge 0xFFFFF000 s.cp0.entryHi (vpn.zeroExtend 32 <<< 12)
      entryLo := Config.freeWord .entryLo s.tick &&& 0x03FFFFFF }
    itlb := [] }

/-- BadVAddr (10 R41). -/
def State.recordAddress (s : State) (va : Word) : State := { s with cp0 := { s.cp0 with badVAddr := va } }

/-- After an address error BadVPN, VPN and EntryLo hold any value (60 R520). -/
def State.recordBadPage (s : State) : State :=
  match s.env.choice.badVpn with
  | some (b, v) => s.recordPage b v
  | none => s.recordPage (s.cp0.context.extractLsb' 2 20) (s.cp0.entryHi.extractLsb' 12 20)

/-- What entry records besides Cause, EPC and Status (60 R505, R520 to R524). -/
def State.record (s : State) : Exc → State
  | .mod va => (s.recordAddress va).recordPage (va.extractLsb' 12 20) (va.extractLsb' 12 20)
  | .tlbRefill _ va => (s.recordAddress va).recordPage (va.extractLsb' 12 20) (va.extractLsb' 12 20)
  | .tlbInvalid _ va => (s.recordAddress va).recordPage (va.extractLsb' 12 20) (va.extractLsb' 12 20)
  | .adel va => (s.recordAddress va).recordBadPage
  | .ades va => (s.recordAddress va).recordBadPage
  | .bus => { s with busErrPending := false }
  | .int | .sys | .bp | .ri | .cpu _ | .ov | .tr | .fpe => s

/-- The restart address: the branch when the instruction is in its delay slot (60 R540). -/
def State.restart (s : State) : Word := if s.inSlot then s.pc - 4 else s.pc

/-- Cause of an exception with an ExcCode (60 R540); IP[1:0] are kept. -/
def State.causeOf (s : State) (e : Exc) (bd bt : Bool) : Word :=
  flag 0x80000000 bd ||| flag 0x40000000 bt ||| ((s.causeUnit e).zeroExtend 32 <<< 28) ||| (s.cp0.cause &&& 0x300) |||
    (e.code.zeroExtend 32 <<< 2)

/-- Status at entry: EXL <- 1, or the KU/IE stack is pushed (60 R540). -/
def State.statusPushed (s : State) : Word :=
  if s.r3000 then merge 0x3F s.cp0.status ((s.cp0.status &&& 0xF) <<< 2) else s.cp0.status ||| 2

/-- Entry writes EPC: CMP = 1 or EXL = 0 (60 R540). -/
def State.writesEpc (s : State) : Bool := s.r3000 || !s.exl

/-- EPC at entry (60 R540). -/
def State.epcAt (s : State) : Word := if s.writesEpc then s.restart &&& 0xFFFFFFFC else s.cp0.epc

/-- BT at entry (60 R540): any value where BD is 0 (92 D13). -/
def State.btAt (s : State) : Bool := if s.inSlot then s.taken else s.env.choice.bt

/-- EPC, BD and BT of an exception (60 R540); of a true trap in a delay slot, what the hardware chooses, whatever EXL is
(93 I21). -/
def State.restartInfo (s : State) (e : Exc) : Word × Bool × Bool :=
  let usual := (s.epcAt, s.inSlot, s.btAt)
  match e, s.env.choice.slotTrap with
  | .tr, some t => if s.inSlot then (t.1 &&& 0xFFFFFFFC, t.2) else usual
  | _, _ => usual

/-- The vector base (60 R546). -/
def State.vectorBase (s : State) : Word :=
  if s.bev then (if s.r3000 then 0xBFC00100 else 0xBFC00200) else 0x80000000

/-- The common vector's offset (60 R546). -/
def State.commonOffset (s : State) : Word := if s.r3000 then 0x080 else 0x180

/-- The vector offset of an exception, by the state before entry (60 R521, R546). -/
def State.vectorOffset (s : State) : Exc → Word
  | .tlbRefill _ va =>
    if s.r3000 then (if va.getLsbD 31 then s.commonOffset else 0) else (if s.exl then s.commonOffset else 0)
  | _ => s.commonOffset

/-- What every entry but the resets shares (60 R540): from `s`, with what the entry records already in `t`, it writes
Cause, EPC and Status and goes to `target`. Writing EPC ends the distance of an MTC0 to it (log entry 17). -/
def State.enter (s t : State) (target cause epc : Word) (o : Outputs) : State :=
  { (if s.writesEpc then t.endHazards [.epc] else t).goTo target with
    cp0 := { t.cp0 with cause := cause, epc := epc, status := s.statusPushed }
    out := o }

/-- Taking an exception (60 R540). -/
def State.takeException (s : State) (e : Exc) : State :=
  let i := s.restartInfo e
  s.enter ((s.leakHiLo).record e) (s.vectorBase + s.vectorOffset e) (s.causeOf e i.2.1 i.2.2) i.1
    { s.out with event := some (.exc e) }

/-- Debug exception entry (60 R541); the DCS bits are already set. -/
def State.takeDebug (s : State) : State :=
  s.enter s.leakHiLo (s.vectorBase + 0x040)
    (merge 0xC0000000 s.cp0.cause (flag 0x80000000 s.inSlot ||| flag 0x40000000 s.btAt)) s.epcAt
    { s.out with event := some .debug }

/-- External Vectored Interrupt entry (60 R542): only BD of Cause changes. -/
def State.takeEvi (s : State) : State :=
  s.enter s.leakHiLo (s.env.pins.eviAddr ++ (0#2)) (merge 0x80000000 s.cp0.cause (flag 0x80000000 s.inSlot)) s.epcAt
    { s.out with event := some .evi, eviAck := true }

/-- Status at NMI and warm reset (60 R543): BEV = 1, bit 21 = 0, SR = 1, and ERL = 1 or the stack pushed. -/
def State.statusNmi (s : State) : Word :=
  let v := (s.cp0.status ||| 0x00500000) &&& 0xFFDFFFFF
  if s.r3000 then merge 0x3F v ((v &&& 0xF) <<< 2) else v ||| 4

/-- The register effects of NMI and warm reset (60 R543, R544). Writing ErrorEPC ends the distance of an MTC0 to it (log
entry 17). -/
def State.enterReset (s : State) (ev : Event) : State :=
  { (s.endHazards [.errorEpc]).goTo 0xBFC00000 with
    cp0 := { s.cp0 with errorEpc := s.restart &&& 0xFFFFFFFC, status := s.statusNmi }
    out := { s.out with event := some ev } }

/-- The buffered stores that an NMI or a warm reset does not lose (93 I3). -/
def keptEntries : List Bool → List WriteEntry → List WriteEntry
  | true :: ls, _ :: es => keptEntries ls es
  | false :: ls, e :: es => e :: keptEntries ls es
  | _, es => es

/-- NMI entry (60 R543); the write buffer may lose stores (93 I3). -/
def State.takeNmi (s : State) : State :=
  { (s.leakHiLo).enterReset .nmi with nmiPending := false, wbuf := keptEntries s.env.choice.lost s.wbuf }

/-! ### Resets (60 R544, R545, 10 R100, R101) -/

/-- A register cold reset does not initialise (10 R100): any value in its writable bits. -/
def State.coldReg (s : State) (k : Nat) (mask : Word) : Word := Config.coldWord k s.tick &&& mask

/-- The CP0 registers after a cold reset (60 R545): the listed values, any value elsewhere. -/
def State.coldCp0 (s : State) : Cp0 where
  index := s.coldReg 32 0x8000001F
  random := s.cfg.tlbLast.zeroExtend 32
  entryLo := s.coldReg 33 0x03FFFFFF
  context := s.coldReg 34 0xFFFFFFFC
  pageMask := s.coldReg 35 0x2000
  wired := 0
  dcs := 0
  badVAddr := s.coldReg 36 0xFFFFFFFF
  count := s.coldReg 37 0xFFFFFFFF
  entryHi := s.coldReg 38 0xFFFFF0FF
  compare := s.coldReg 39 0xFFFFFFFF
  status := (if s.env.choice.scramble then s.coldReg 40 0x0000FF3B else s.cp0.status &&& 0x0000FF3B) ||| 0x00400004
  cause := s.coldReg 41 0xF000037C
  epc := s.coldReg 42 0xFFFFFFFC
  ccc := 0
  llAddr := s.coldReg 43 0xFFFFFFFC
  bpc := s.coldReg 44 0xFFFFFFFC
  bda := s.coldReg 45 0xFFFFFFFF
  bpcm := s.coldReg 46 0xFFFFFFFC
  bdam := s.coldReg 47 0xFFFFFFFF
  rotate := s.coldReg 48 0x1F
  cmask := s.coldReg 49 0x1F
  errorEpc := s.restart &&& 0xFFFFFFFC

/-- A TLB entry after a cold reset: any value (10 R80). -/
def State.coldEntry (s : State) (i : Nat) : TlbEntry :=
  let a := Config.coldWord (200 + 2 * i) s.tick
  let b := Config.coldWord (201 + 2 * i) s.tick
  { big := a.getLsbD 8, vpn := a.extractLsb' 12 20, asid := a.extractLsb' 0 8, pfn := b.extractLsb' 6 20,
    alg := b.extractLsb' 3 3, dirty := b.getLsbD 2, valid := b.getLsbD 1, isGlobal := b.getLsbD 0 }

/-- A cache set after a cold or a warm reset: random tags, state bits and data in every line (10 R87, 93 I2); `base`
tells the sets apart. -/
def State.coldSet (s : State) (base : Nat) (isD : Bool) : CacheSet where
  tags := (List.range 256).foldl (fun t l =>
    let w := Config.coldWord (base + l) s.tick
    Sparse.set Tag.invalid t l { addr := w.extractLsb' 10 22, valid := w.getLsbD 0, dirty := isD && w.getLsbD 1 }) []
  data := (List.range 8192).foldl (fun d k =>
    Sparse.set 0 d k ((Config.coldWord (base + 256 + k) s.tick).extractLsb' 0 8)) []

/-- The use bits of the I-cache after a reset: any (10 R85, R87). -/
def State.resetUses (s : State) : List (Nat × Bool) :=
  (List.range 256).foldl (fun m l => Sparse.set false m l (Config.resetBit (18000 + l) s.tick)) []

/-- Cold reset (60 R545): the registers R100 lists, any value elsewhere; the latches are clear, the write buffer is
empty, the ICEport is reset; memory and the environment stay. A drawn entry of the instruction TLB is held only if it is
valid (log entry 49). -/
def State.takeCold (s : State) : State :=
  { s.goTo 0xBFC00000 with
    gpr := Vector.ofFn fun i : Fin 32 => if i.val = 0 then 0 else Config.coldWord i.val s.tick
    hi := Config.coldWord 50 s.tick
    lo := Config.coldWord 51 s.tick
    llbit := false
    cp0 := s.coldCp0
    tlb := Vector.ofFn fun i : Fin 32 => s.coldEntry i.val
    itlb := ([s.coldEntry 32, s.coldEntry 33].filter TlbEntry.valid)
    icache := { set0 := s.coldSet 10000 false, set1 := s.coldSet 20000 false }
    imru := s.resetUses
    dcache := { set0 := s.coldSet 30000 true, set1 := s.coldSet 40000 true }
    wbuf := []
    busLock := false
    nmiPending := false
    busErrPending := false
    timerPending := false
    uart := { Uart.reset with
      rxData := (Config.coldWord 52 s.tick).extractLsb' 0 8
      txData := (Config.coldWord 53 s.tick).extractLsb' 0 8 }
    recent := []
    cacheDue := []
    out := { s.out with event := some .cold } }

/-- Warm reset (60 R544): the registers of NMI; the caches hold any value (93 I2), each buffered store reaches memory or
is lost (93 I3), the ICEport is reset. The latched events stay pending: log entry 49. -/
def State.takeWarm (s : State) : State :=
  let t := (keptEntries s.env.choice.lost s.wbuf).foldl State.physWrite { s with wbuf := [] }
  { t.enterReset .warm with
    icache := { set0 := s.coldSet 10000 false, set1 := s.coldSet 20000 false }
    imru := s.resetUses
    dcache := { set0 := s.coldSet 30000 true, set1 := s.coldSet 40000 true }
    busLock := false
    cacheDue := []
    uart := t.uart.clear }

/-! ### Ending an instruction -/

/-- An ERET, TLBWI or TLBWR directly behind an instruction that raises an exception may take effect (70 R632). -/
def State.leakNext (s : State) : State :=
  if s.env.choice.leakNext then
    match (s.peek s.npc).map decode with
    | some (.instr .eret) => if s.copUsable 0 && !s.r3000 then s.leaveLevel else s
    | some (.instr .tlbwi) =>
      if s.copUsable 0 && s.tlbEnabled && decide (s.tlbIndex.toNat ≤ s.cfg.tlbLast.toNat) then s.writeTlb s.tlbIndex else s
    | some (.instr .tlbwr) =>
      match s.randomIndex with
      | some i => if s.copUsable 0 && s.tlbEnabled then s.writeTlb i else s
      | none => s
    | _ => s
  else s

/-- The outcome of a step of one instruction. -/
abbrev Result := Host.Outcome State Fault Refusal

/-- The instruction raises `e`: it has no effect of its own and the exception is taken (60 R501, R540). -/
def State.raised (s : State) (e : Exc) : Result := .next ((s.leakNext).takeException e)

/-- The instruction ends: its state, its exception, its Debug exception, which `resolve` enters, or its stop. -/
def Res.settle (x : Res State) : Result :=
  match x with
  | .ok t _ => .next t
  | .raise e s => s.raised e
  | .abandon s => .next s
  | .fault f => .fault f
  | .refuse r => .refused r

/-- A word-by-word shorthand: write `v` to GPR[r] and go on (41 R300). -/
def State.result (s : State) (r : BitVec 5) (v : Word) : Result := .next (s.setReg r v).advance

/-- A conditional branch (43 R370): refused in a delay slot (R401). -/
def State.branch (s : State) (cond : Bool) (target : Word) : Result :=
  if s.inSlot then .refused .branchInDelaySlot
  else
    let t := (s.traceTransfer cond).targetCheck target
    .next (if cond then t.transfer target false else t.fallThrough)

/-- The slot of a Branch Likely holds a load or store while CCC.IsC = 1 (70 R636). -/
def State.isolatedSlot (s : State) : Bool :=
  Ccc.isc s.cp0.ccc && match (s.peek s.npc).map decode with
    | some (.instr i) => i.isMemory
    | _ => false

/-- The cancelled slot of a Branch Likely executes all the same: only a load or store while the caches are isolated, whose
access the hardware may not suppress (70 R636, log entry 22). -/
def State.slotSurvives (s : State) : Bool := s.env.choice.slotRuns && s.isolatedSlot

/-- A Branch Likely (43 R373); not taken, it cancels its slot unless the slot survives. -/
def State.branchLikely (s : State) (survives cond : Bool) (target : Word) : Result :=
  if s.inSlot then .refused .branchInDelaySlot
  else
    let t := (s.traceTransfer cond).targetCheck target
    .next (if cond then t.transfer target false else if survives then t.fallThrough else t.annul)

/-- A jump (43 R370, R401). -/
def State.jump (s : State) (target : Word) (viaRegister : Bool) : Result :=
  if s.inSlot then .refused .branchInDelaySlot
  else .next ((s.traceTransfer true).transfer target viaRegister)

/-- A trap instruction (44 R410). -/
def State.trapIf (s : State) (cond : Bool) : Result := if cond then s.raised .tr else .next s.advance

/-- Put a word where the next instruction is fetched: in memory, and in the I-cache line or scratchpad that answers
the fetch, if one does. It stands for loading a program from outside (92 D29, log entry 5). -/
def State.placeWord (s : State) (w : Word) : State :=
  match s.translate s.pc .fetch (Ccc.isc s.cp0.ccc) with
  | .ok (pa, attr) _ =>
    let bs := toBytes s.cfg.bigEndian 4 w
    let t := { s with mem := Memory.writeBytes s.mem pa bs }
    if s.iScratch s.pc pa then t.setIWay true (s.icache.set1.writeData (offsetOf s.isize s.pc) bs)
    else if attr = .uncached then t
    else match s.icache.hitWay s.iOn0 s.iOn1 s.isize s.pc pa with
      | some w => t.setIWay w ((s.icache.way w).writeData (offsetOf s.isize s.pc) bs)
      | none => t
  | .raise _ _ => s
  | .abandon _ => s
  | .fault _ => s
  | .refuse _ => s

/-- Run `f` if CP0 is usable, else CpU with CE = 0 (46 R460). -/
def State.withCp0 (s : State) (f : Result) : Result := if s.copUsable 0 then f else s.raised (.cpu 0)

end Sys2Proof.Machine
end

