-- ==== Sys2Proof/Machine/LoadStore.lean ====
section
/-! DEFINITION. Loads, stores, LL, SC and SYNC (40). -/

namespace Sys2Proof.Machine

/-- A load into GPR[rt]: MemRead of `n` bytes, extended by `ext` (40 R270); any value after a bus error (93 I12). -/
def State.loadInto (s : State) (base rt : BitVec 5) (offset : BitVec 16) (n : Nat) (ext : Word → Word) : Result :=
  let va := s.ea base offset
  Res.settle ((s.load va va n n).andThen fun r t => .ok (t.setReg rt (t.loaded ext r.1)).advance t)

/-- A merging load: `n` bytes from `start` in the word of the effective address (40 R287). -/
def State.loadMerge (s : State) (va start : Word) (n : Nat) (rt : BitVec 5) (f : Word → Word → Word) : Result :=
  Res.settle ((s.load va start 1 n).andThen fun r t => .ok (t.setReg rt (t.loaded (f · (s.reg rt)) r.1)).advance t)

/-- A store of the `n` low bytes of `v` (40 R270). -/
def State.storeFrom (s : State) (va start : Word) (align n : Nat) (v : Word) : Result :=
  Res.settle ((s.store va start align n v).andThen fun _ t => .ok t.advance t)

/-- Sign extension of a loaded byte (40 R271). -/
def signByte (v : Word) : Word := (v.extractLsb' 0 8).signExtend 32

/-- Sign extension of a loaded halfword (40 R273). -/
def signHalf (v : Word) : Word := (v.extractLsb' 0 16).signExtend 32

/-- LB (40 R271). -/
def execLb (base rt : BitVec 5) (offset : BitVec 16) (s : State) : Result :=
  s.loadInto base rt offset 1 signByte

/-- LH (40 R273). -/
def execLh (base rt : BitVec 5) (offset : BitVec 16) (s : State) : Result :=
  s.loadInto base rt offset 2 signHalf

/-- LW (40 R275). -/
def execLw (base rt : BitVec 5) (offset : BitVec 16) (s : State) : Result :=
  s.loadInto base rt offset 4 id

/-- LBU (40 R272). -/
def execLbu (base rt : BitVec 5) (offset : BitVec 16) (s : State) : Result :=
  s.loadInto base rt offset 1 id

/-- LHU (40 R274). -/
def execLhu (base rt : BitVec 5) (offset : BitVec 16) (s : State) : Result :=
  s.loadInto base rt offset 2 id

/-- LWL (40 R276, R287). -/
def execLwl (base rt : BitVec 5) (offset : BitVec 16) (s : State) : Result :=
  let va := s.ea base offset
  let n := leftCount s.cfg.bigEndian va
  s.loadMerge va (leftStart s.cfg.bigEndian va) n rt (mergeLeft n)

/-- LWR (40 R277, R287). -/
def execLwr (base rt : BitVec 5) (offset : BitVec 16) (s : State) : Result :=
  let va := s.ea base offset
  let n := rightCount s.cfg.bigEndian va
  s.loadMerge va (rightStart s.cfg.bigEndian va) n rt (mergeRight n)

/-- SB (40 R278). -/
def execSb (base rt : BitVec 5) (offset : BitVec 16) (s : State) : Result :=
  let va := s.ea base offset
  s.storeFrom va va 1 1 (s.reg rt)

/-- SH (40 R279). -/
def execSh (base rt : BitVec 5) (offset : BitVec 16) (s : State) : Result :=
  let va := s.ea base offset
  s.storeFrom va va 2 2 (s.reg rt)

/-- SW (40 R280). -/
def execSw (base rt : BitVec 5) (offset : BitVec 16) (s : State) : Result :=
  let va := s.ea base offset
  s.storeFrom va va 4 4 (s.reg rt)

/-- SWL (40 R281, R287). -/
def execSwl (base rt : BitVec 5) (offset : BitVec 16) (s : State) : Result :=
  let va := s.ea base offset
  let n := leftCount s.cfg.bigEndian va
  s.storeFrom va (leftStart s.cfg.bigEndian va) 1 n (storeLeft n (s.reg rt))

/-- SWR (40 R282, R287). -/
def execSwr (base rt : BitVec 5) (offset : BitVec 16) (s : State) : Result :=
  let va := s.ea base offset
  let n := rightCount s.cfg.bigEndian va
  s.storeFrom va (rightStart s.cfg.bigEndian va) 1 n (s.reg rt)

/-- A data access at `va` goes the way its cache attribute says: no OCAbus device, isolated cache or scratchpad serves it
(20 R155). -/
def State.usesAttribute (s : State) (va pa : Word) : Bool :=
  s.env.pins.oca.isNone && !Ccc.isc s.testMode && (s.dScratch va pa).isNone

/-- The link a Load Linked leaves: LLbit, LLAddr, and the bus lock if `lock` (40 R283, 20 R190, R191). -/
def State.setLink (s : State) (pa : Word) (lock : Bool) : State :=
  { s with
    llbit := true
    cp0 := { s.cp0 with llAddr := pa &&& 0xFFFFFFFC }
    busLock := s.busLock || lock }

/-- The link a Store Conditional leaves: none (40 R284). -/
def State.clearLink (s : State) : State := { s with llbit := false, busLock := false }

/-- LL (40 R283). It asserts the bus lock in an uncached or write-through area (20 R191), also where a line answers the
read (log entry 46). -/
def execLl (base rt : BitVec 5) (offset : BitVec 16) (s : State) : Result :=
  let va := s.ea base offset
  Res.settle ((s.load va va 4 4).andThen fun r t =>
    .ok ((t.setReg rt (t.loaded id r.1)).setLink r.2.1 (s.usesAttribute va r.2.1 && r.2.2 != .writeBack)).advance t)

/-- SC (40 R284): the checks of SW come first; the store is made only if LLbit is 1. -/
def execSc (base rt : BitVec 5) (offset : BitVec 16) (s : State) : Result :=
  let va := s.ea base offset
  if s.llbit then
    Res.settle ((s.store va va 4 4 (s.reg rt)).andThen fun _ t => .ok ((t.clearLink).setReg rt 1).advance t)
  else
    Res.settle ((s.dataAddress va 4 true).andThen fun _ t => .ok ((t.clearLink).setReg rt 0).advance t)

/-- SYNC (40 R285, 20 R182): it waits until every buffered store has reached memory. -/
def execSync (s : State) : Result := Res.settle ((s.awaitDrain s.wbuf.length).andThen fun _ t => .ok t.advance t)

end Sys2Proof.Machine
end

