-- ==== Sys2Proof/Machine/Alu.lean ====
section
/-! DEFINITION. Computational instructions with an immediate or three registers (41, sections 2 and 3). -/

namespace Sys2Proof.Machine

/-- A sum or difference that traps on overflow (41 R300). -/
def State.trapping (s : State) (rd : BitVec 5) (overflow : Bool) (v : Word) : Result :=
  if overflow then s.raised .ov else s.result rd v

/-- ADDI (41 R301). -/
def execAddi (rs rt : BitVec 5) (imm : BitVec 16) (s : State) : Result :=
  s.trapping rt (addOverflow (s.reg rs) (sext imm)) (s.reg rs + sext imm)

/-- ADDIU (41 R302). -/
def execAddiu (rs rt : BitVec 5) (imm : BitVec 16) (s : State) : Result :=
  s.result rt (s.reg rs + sext imm)

/-- SLTI (41 R303). -/
def execSlti (rs rt : BitVec 5) (imm : BitVec 16) (s : State) : Result :=
  s.result rt (setIf (ltSigned (s.reg rs) (sext imm)))

/-- SLTIU (41 R304). -/
def execSltiu (rs rt : BitVec 5) (imm : BitVec 16) (s : State) : Result :=
  s.result rt (setIf (ltUnsigned (s.reg rs) (sext imm)))

/-- ANDI (41 R305). -/
def execAndi (rs rt : BitVec 5) (imm : BitVec 16) (s : State) : Result :=
  s.result rt (s.reg rs &&& zext imm)

/-- ORI (41 R306). -/
def execOri (rs rt : BitVec 5) (imm : BitVec 16) (s : State) : Result :=
  s.result rt (s.reg rs ||| zext imm)

/-- XORI (41 R307). -/
def execXori (rs rt : BitVec 5) (imm : BitVec 16) (s : State) : Result :=
  s.result rt (s.reg rs ^^^ zext imm)

/-- LUI (41 R308). -/
def execLui (rt : BitVec 5) (imm : BitVec 16) (s : State) : Result := s.result rt (imm ++ (0#16))

/-- ADD (41 R310). -/
def execAdd (rs rt rd : BitVec 5) (s : State) : Result :=
  s.trapping rd (addOverflow (s.reg rs) (s.reg rt)) (s.reg rs + s.reg rt)

/-- SUB (41 R312). -/
def execSub (rs rt rd : BitVec 5) (s : State) : Result :=
  s.trapping rd (subOverflow (s.reg rs) (s.reg rt)) (s.reg rs - s.reg rt)

/-- ADDU (41 R311). -/
def execAddu (rs rt rd : BitVec 5) (s : State) : Result :=
  s.result rd (s.reg rs + s.reg rt)

/-- SUBU (41 R313). -/
def execSubu (rs rt rd : BitVec 5) (s : State) : Result :=
  s.result rd (s.reg rs - s.reg rt)

/-- SLT (41 R314). -/
def execSlt (rs rt rd : BitVec 5) (s : State) : Result :=
  s.result rd (setIf (ltSigned (s.reg rs) (s.reg rt)))

/-- SLTU (41 R315). -/
def execSltu (rs rt rd : BitVec 5) (s : State) : Result :=
  s.result rd (setIf (ltUnsigned (s.reg rs) (s.reg rt)))

/-- AND (41 R316). -/
def execAnd (rs rt rd : BitVec 5) (s : State) : Result :=
  s.result rd (s.reg rs &&& s.reg rt)

/-- OR (41 R317). -/
def execOr (rs rt rd : BitVec 5) (s : State) : Result :=
  s.result rd (s.reg rs ||| s.reg rt)

/-- XOR (41 R318). -/
def execXor (rs rt rd : BitVec 5) (s : State) : Result :=
  s.result rd (s.reg rs ^^^ s.reg rt)

/-- NOR (41 R319). -/
def execNor (rs rt rd : BitVec 5) (s : State) : Result :=
  s.result rd (~~~(s.reg rs ||| s.reg rt))

end Sys2Proof.Machine
end

