-- ==== Sys2Proof/Machine/Shift.lean ====
section
/-! DEFINITION. Shifts (41, section 4). -/

namespace Sys2Proof.Machine

/-- The shift count of a variable shift: bits [4:0] (41 R323). -/
def State.shiftCount (s : State) (rs : BitVec 5) : Nat := (s.reg rs).toNat % 32

/-- SLL (41 R320). -/
def execSll (rt rd shamt : BitVec 5) (s : State) : Result :=
  s.result rd (s.reg rt <<< shamt.toNat)

/-- SRL (41 R321). -/
def execSrl (rt rd shamt : BitVec 5) (s : State) : Result :=
  s.result rd (s.reg rt >>> shamt.toNat)

/-- SRA (41 R322). -/
def execSra (rt rd shamt : BitVec 5) (s : State) : Result :=
  s.result rd ((s.reg rt).sshiftRight shamt.toNat)

/-- SLLV (41 R323). -/
def execSllv (rs rt rd : BitVec 5) (s : State) : Result :=
  s.result rd (s.reg rt <<< s.shiftCount rs)

/-- SRLV (41 R324). -/
def execSrlv (rs rt rd : BitVec 5) (s : State) : Result :=
  s.result rd (s.reg rt >>> s.shiftCount rs)

/-- SRAV (41 R325). -/
def execSrav (rs rt rd : BitVec 5) (s : State) : Result :=
  s.result rd ((s.reg rt).sshiftRight (s.shiftCount rs))

end Sys2Proof.Machine
end

