-- ==== Sys2Proof/Machine/MulDiv.lean ====
section
/-! DEFINITION. Multiply and divide (41, section 5). -/

namespace Sys2Proof.Machine

/-- Run `f` if the multiply/divide unit is there and enabled, else RI (30 R247, 41 R330). -/
def State.withMdu (s : State) (f : Result) : Result := if s.mduUsable then f else s.raised .ri

/-- Write a 64-bit result to HI and LO and go on (10 R23, R24). -/
def State.hiLoResult (s : State) (p : BitVec 64) : Result :=
  .next (s.setHiLo (p.extractLsb' 32 32) (p.extractLsb' 0 32)).advance

/-- The exact signed product (41 R331). -/
def signedProduct (a b : Word) : BitVec 64 := BitVec.ofInt 64 (a.toInt * b.toInt)

/-- The exact unsigned product (41 R332). -/
def unsignedProduct (a b : Word) : BitVec 64 := BitVec.ofNat 64 (a.toNat * b.toNat)

/-- The operands for which the manual defines DIV (41 R333). -/
def divDefined (a b : Word) : Bool := b != 0 && !(a == 0x80000000 && b == 0xFFFFFFFF)

/-- MULT (41 R331). -/
def execMult (rs rt : BitVec 5) (s : State) : Result :=
  s.withMdu (s.hiLoResult (signedProduct (s.reg rs) (s.reg rt)))

/-- MULTU (41 R332). -/
def execMultu (rs rt : BitVec 5) (s : State) : Result :=
  s.withMdu (s.hiLoResult (unsignedProduct (s.reg rs) (s.reg rt)))

/-- HI after an undefined division: any value (92 D4). -/
def State.freeHi (s : State) : Word := Config.freeWord .divHi s.tick

/-- LO after an undefined division: any value (92 D4). -/
def State.freeLo (s : State) : Word := Config.freeWord .divLo s.tick

/-- DIV (41 R333). -/
def execDiv (rs rt : BitVec 5) (s : State) : Result :=
  let a := s.reg rs
  let b := s.reg rt
  s.withMdu (.next ((if divDefined a b
    then s.setHiLo (BitVec.ofInt 32 (a.toInt.tmod b.toInt)) (BitVec.ofInt 32 (a.toInt.tdiv b.toInt))
    else s.setHiLo s.freeHi s.freeLo).advance))

/-- DIVU (41 R334). -/
def execDivu (rs rt : BitVec 5) (s : State) : Result :=
  let a := s.reg rs
  let b := s.reg rt
  s.withMdu (.next ((if b != 0
    then s.setHiLo (BitVec.ofNat 32 (a.toNat % b.toNat)) (BitVec.ofNat 32 (a.toNat / b.toNat))
    else s.setHiLo s.freeHi s.freeLo).advance))

/-- MFHI (41 R335). -/
def execMfhi (rd : BitVec 5) (s : State) : Result := s.withMdu (s.result rd s.hi)

/-- MFLO (41 R336). -/
def execMflo (rd : BitVec 5) (s : State) : Result := s.withMdu (s.result rd s.lo)

/-- MTHI (41 R337). -/
def execMthi (rs : BitVec 5) (s : State) : Result := s.withMdu (.next (s.setHiLo (s.reg rs) s.lo).advance)

/-- MTLO (41 R338). -/
def execMtlo (rs : BitVec 5) (s : State) : Result := s.withMdu (.next (s.setHiLo s.hi (s.reg rs)).advance)

end Sys2Proof.Machine
end

