-- ==== Sys2Proof/Machine/Extensions.lean ====
section
/-! DEFINITION. The CW4011 extensions (42). -/

namespace Sys2Proof.Machine

/-- The number of the highest set bit below bit `n`, or all ones (42 R352). -/
def topBit (x : Word) : Nat → Word
  | 0 => 0xFFFFFFFF
  | n + 1 => if x.getLsbD n then BitVec.ofNat 32 n else topBit x n

/-- CMask[4:0] low bits set (42 R351). -/
def State.circularMask (s : State) : Word := (1#32 <<< (s.cp0.cmask.toNat % 32)) - 1

/-- Rotate[4:0] (42 R356). -/
def State.rotateCount (s : State) : Nat := s.cp0.rotate.toNat % 32

/-- Run `f` if the multiply-accumulate unit is there and enabled, else RI (42 R358). -/
def State.withMac (s : State) (f : Result) : Result := if s.macUsable then f else s.raised .ri

/-- The 64-bit accumulator (10 R24). -/
def State.accumulator (s : State) : BitVec 64 := s.hi ++ s.lo

/-- ADDCIU (42 R351). -/
def execAddciu (rs rt : BitVec 5) (imm : BitVec 16) (s : State) : Result :=
  s.result rt (merge s.circularMask (s.reg rs) (s.reg rs + sext imm))

/-- FFS (42 R352). -/
def execFfs (rs rd : BitVec 5) (s : State) : Result := s.result rd (topBit (s.reg rs) 32)

/-- FFC (42 R353). -/
def execFfc (rs rd : BitVec 5) (s : State) : Result := s.result rd (topBit (~~~(s.reg rs)) 32)

/-- MIN (42 R354). -/
def execMin (rs rt rd : BitVec 5) (s : State) : Result :=
  s.result rd (if ltSigned (s.reg rs) (s.reg rt) then s.reg rs else s.reg rt)

/-- MAX (42 R355). -/
def execMax (rs rt rd : BitVec 5) (s : State) : Result :=
  s.result rd (if ltSigned (s.reg rt) (s.reg rs) then s.reg rs else s.reg rt)

/-- SELSR (42 R356). -/
def execSelsr (rs rt rd : BitVec 5) (s : State) : Result :=
  s.result rd (((s.reg rs ++ s.reg rt) >>> s.rotateCount).extractLsb' 0 32)

/-- SELSL (42 R357). -/
def execSelsl (rs rt rd : BitVec 5) (s : State) : Result :=
  s.result rd (((s.reg rs ++ s.reg rt) <<< s.rotateCount).extractLsb' 32 32)

/-- MADD (42 R358). -/
def execMadd (rs rt : BitVec 5) (s : State) : Result :=
  s.withMac (s.hiLoResult (s.accumulator + signedProduct (s.reg rs) (s.reg rt)))

/-- MADDU (42 R359). -/
def execMaddu (rs rt : BitVec 5) (s : State) : Result :=
  s.withMac (s.hiLoResult (s.accumulator + unsignedProduct (s.reg rs) (s.reg rt)))

/-- MSUB (42 R360). -/
def execMsub (rs rt : BitVec 5) (s : State) : Result :=
  s.withMac (s.hiLoResult (s.accumulator - signedProduct (s.reg rs) (s.reg rt)))

/-- MSUBU (42 R361). -/
def execMsubu (rs rt : BitVec 5) (s : State) : Result :=
  s.withMac (s.hiLoResult (s.accumulator - unsignedProduct (s.reg rs) (s.reg rt)))

end Sys2Proof.Machine
end

