-- ==== Sys2Proof/Machine/Branch.lean ====
section
/-! DEFINITION. Jumps and branches (43). -/

namespace Sys2Proof.Machine

/-- GPR[rs] is negative (43 R384). -/
def State.negative (s : State) (rs : BitVec 5) : Bool := (s.reg rs).getLsbD 31

/-- GPR[rs] is zero. -/
def State.isZero (s : State) (rs : BitVec 5) : Bool := s.reg rs == 0

/-- Write the link register r31 (43 R374). -/
def State.linkR31 (s : State) : State := s.setReg 31 s.link

/-- J (43 R375). -/
def execJ (target : BitVec 26) (s : State) : Result := s.jump (s.jumpTarget target) false

/-- JAL (43 R376). -/
def execJal (target : BitVec 26) (s : State) : Result := (s.linkR31).jump (s.jumpTarget target) false

/-- JR (43 R377). -/
def execJr (rs : BitVec 5) (s : State) : Result := s.jump (s.reg rs) true

/-- JALR (43 R378): the target is read before the link is written. -/
def execJalr (rs rd : BitVec 5) (s : State) : Result := (s.setReg rd s.link).jump (s.reg rs) true

/-- BEQ (43 R380). -/
def execBeq (rs rt : BitVec 5) (offset : BitVec 16) (s : State) : Result :=
  s.branch (s.reg rs == s.reg rt) (s.branchTarget offset)

/-- BNE (43 R381). -/
def execBne (rs rt : BitVec 5) (offset : BitVec 16) (s : State) : Result :=
  s.branch (s.reg rs != s.reg rt) (s.branchTarget offset)

/-- BLEZ (43 R382). -/
def execBlez (rs : BitVec 5) (offset : BitVec 16) (s : State) : Result :=
  s.branch (s.negative rs || s.isZero rs) (s.branchTarget offset)

/-- BGTZ (43 R383). -/
def execBgtz (rs : BitVec 5) (offset : BitVec 16) (s : State) : Result :=
  s.branch (!s.negative rs && !s.isZero rs) (s.branchTarget offset)

/-- BLTZ (43 R384). -/
def execBltz (rs : BitVec 5) (offset : BitVec 16) (s : State) : Result :=
  s.branch (s.negative rs) (s.branchTarget offset)

/-- BGEZ (43 R385). -/
def execBgez (rs : BitVec 5) (offset : BitVec 16) (s : State) : Result :=
  s.branch (!s.negative rs) (s.branchTarget offset)

/-- BLTZAL (43 R386). -/
def execBltzal (rs : BitVec 5) (offset : BitVec 16) (s : State) : Result :=
  (s.linkR31).branch (s.negative rs) (s.branchTarget offset)

/-- BGEZAL (43 R387). -/
def execBgezal (rs : BitVec 5) (offset : BitVec 16) (s : State) : Result :=
  (s.linkR31).branch (!s.negative rs) (s.branchTarget offset)

/-- BEQL (43 R390). -/
def execBeql (rs rt : BitVec 5) (offset : BitVec 16) (s : State) : Result :=
  s.branchLikely s.slotSurvives (s.reg rs == s.reg rt) (s.branchTarget offset)

/-- BNEL (43 R391). -/
def execBnel (rs rt : BitVec 5) (offset : BitVec 16) (s : State) : Result :=
  s.branchLikely s.slotSurvives (s.reg rs != s.reg rt) (s.branchTarget offset)

/-- BLEZL (43 R392). -/
def execBlezl (rs : BitVec 5) (offset : BitVec 16) (s : State) : Result :=
  s.branchLikely s.slotSurvives (s.negative rs || s.isZero rs) (s.branchTarget offset)

/-- BGTZL (43 R393). -/
def execBgtzl (rs : BitVec 5) (offset : BitVec 16) (s : State) : Result :=
  s.branchLikely s.slotSurvives (!s.negative rs && !s.isZero rs) (s.branchTarget offset)

/-- BLTZL (43 R394). -/
def execBltzl (rs : BitVec 5) (offset : BitVec 16) (s : State) : Result :=
  s.branchLikely s.slotSurvives (s.negative rs) (s.branchTarget offset)

/-- BGEZL (43 R395). -/
def execBgezl (rs : BitVec 5) (offset : BitVec 16) (s : State) : Result :=
  s.branchLikely s.slotSurvives (!s.negative rs) (s.branchTarget offset)

/-- BLTZALL (43 R396). -/
def execBltzall (rs : BitVec 5) (offset : BitVec 16) (s : State) : Result :=
  (s.linkR31).branchLikely s.slotSurvives (s.negative rs) (s.branchTarget offset)

/-- BGEZALL (43 R397). -/
def execBgezall (rs : BitVec 5) (offset : BitVec 16) (s : State) : Result :=
  (s.linkR31).branchLikely s.slotSurvives (!s.negative rs) (s.branchTarget offset)

end Sys2Proof.Machine
end

