-- ==== Sys2Proof/Machine/Trap.lean ====
section
/-! DEFINITION. Traps, SYSCALL and BREAK (44). -/

namespace Sys2Proof.Machine

/-- TGE (44 R411). -/
def execTge (rs rt : BitVec 5) (s : State) : Result :=
  s.trapIf (!ltSigned (s.reg rs) (s.reg rt))

/-- TGEU (44 R412). -/
def execTgeu (rs rt : BitVec 5) (s : State) : Result :=
  s.trapIf (!ltUnsigned (s.reg rs) (s.reg rt))

/-- TLT (44 R413). -/
def execTlt (rs rt : BitVec 5) (s : State) : Result :=
  s.trapIf (ltSigned (s.reg rs) (s.reg rt))

/-- TLTU (44 R414). -/
def execTltu (rs rt : BitVec 5) (s : State) : Result :=
  s.trapIf (ltUnsigned (s.reg rs) (s.reg rt))

/-- TEQ (44 R415). -/
def execTeq (rs rt : BitVec 5) (s : State) : Result :=
  s.trapIf (s.reg rs == (s.reg rt))

/-- TNE (44 R416). -/
def execTne (rs rt : BitVec 5) (s : State) : Result :=
  s.trapIf (s.reg rs != (s.reg rt))

/-- TGEI (44 R417, 92 D10). -/
def execTgei (rs : BitVec 5) (imm : BitVec 16) (s : State) : Result :=
  s.trapIf (!ltSigned (s.reg rs) (sext imm))

/-- TGEIU (44 R418, 92 D10). -/
def execTgeiu (rs : BitVec 5) (imm : BitVec 16) (s : State) : Result :=
  s.trapIf (!ltUnsigned (s.reg rs) (sext imm))

/-- TLTI (44 R419, 92 D10). -/
def execTlti (rs : BitVec 5) (imm : BitVec 16) (s : State) : Result :=
  s.trapIf (ltSigned (s.reg rs) (sext imm))

/-- TLTIU (44 R420, 92 D10). -/
def execTltiu (rs : BitVec 5) (imm : BitVec 16) (s : State) : Result :=
  s.trapIf (ltUnsigned (s.reg rs) (sext imm))

/-- TEQI (44 R421, 92 D10). -/
def execTeqi (rs : BitVec 5) (imm : BitVec 16) (s : State) : Result :=
  s.trapIf (s.reg rs == (sext imm))

/-- TNEI (44 R422, 92 D10). -/
def execTnei (rs : BitVec 5) (imm : BitVec 16) (s : State) : Result :=
  s.trapIf (s.reg rs != (sext imm))

/-- SYSCALL (44 R425); its code is not interpreted. -/
def execSyscall (_code : BitVec 20) (s : State) : Result := s.raised .sys

/-- BREAK (44 R426); its code is not interpreted. -/
def execBrk (_code : BitVec 20) (s : State) : Result := s.raised .bp

end Sys2Proof.Machine
end

