-- ==== Sys2Proof/Machine/Coprocessor.lean ====
section
/-! DEFINITION. Coprocessor instructions (45). -/

namespace Sys2Proof.Machine

/-- Run `f` if coprocessor `z` is usable (45 R441) and does not request its exception (60 R535). -/
def State.withCop (s : State) (z : BitVec 2) (f : Result) : Result :=
  if s.copUsable z then (if s.cpPresent z && s.env.pins.cpFault then s.raised .fpe else f) else s.raised (.cpu z)

/-- CopExec and CopDataIn: the coprocessor receives the word and a datum (45 R440). -/
def State.copSend (s : State) (z : BitVec 2) (w : Word) (v : Option Word) : State :=
  { s with out := { s.out with cop := some { unit := z, word := w, dataIn := v } } }

/-- CopDataOut: what the coprocessor drives, any value if there is none (45 R440, R455). -/
def State.copData (s : State) (z : BitVec 2) : Word :=
  if s.cpPresent z then s.env.pins.cpData else Config.freeWord .copData s.tick

/-- LWCz (45 R442). -/
def State.loadCop (s : State) (z : BitVec 2) (w : Word) (base : BitVec 5) (offset : BitVec 16) : Result :=
  let va := s.ea base offset
  s.withCop z (Res.settle ((s.load va va 4 4).andThen fun r t => .ok (t.copSend z w (some (t.loaded id r.1))).advance t))

/-- SWCz (45 R443). -/
def State.storeCop (s : State) (z : BitVec 2) (w : Word) (base : BitVec 5) (offset : BitVec 16) : Result :=
  let va := s.ea base offset
  s.withCop z (Res.settle ((s.store va va 4 4 (s.copData z)).andThen fun _ t => .ok (t.copSend z w none).advance t))

/-- MTCz and CTCz (45 R444, R446). -/
def State.moveToCop (s : State) (z : BitVec 2) (w : Word) (rt : BitVec 5) : Result :=
  s.withCop z (.next (s.copSend z w (some (s.reg rt))).advance)

/-- MFCz and CFCz (45 R445, R447). -/
def State.moveFromCop (s : State) (z : BitVec 2) (w : Word) (rt : BitVec 5) : Result :=
  s.withCop z (.next ((s.copSend z w none).setReg rt (s.copData z)).advance)

/-- COPz (45 R448). -/
def State.copOperation (s : State) (z : BitVec 2) (w : Word) : Result :=
  s.withCop z (.next (s.copSend z w none).advance)

/-- A coprocessor branch, whose word goes to coprocessors 1 to 3 like every COPz word (45 R440). -/
def State.copShow (s : State) (z : BitVec 2) (w : Word) : State := if z = 0 then s else s.copSend z w none

/-- BCzF and BCzT (45 R449, R450). -/
def State.copBranch (s : State) (z : BitVec 2) (w : Word) (want : Bool) (offset : BitVec 16) : Result :=
  if s.copUsable z then (s.copShow z w).branch (s.cpCond z == want) (s.branchTarget offset) else s.raised (.cpu z)

/-- BCzFL and BCzTL (45 R451, R452). -/
def State.copBranchLikely (s : State) (z : BitVec 2) (w : Word) (want : Bool) (offset : BitVec 16) : Result :=
  if s.copUsable z then (s.copShow z w).branchLikely s.slotSurvives (s.cpCond z == want) (s.branchTarget offset)
  else s.raised (.cpu z)

/-- LWC1 (45 R442). -/
def execLwc1 (base rt : BitVec 5) (offset : BitVec 16) (s : State) : Result :=
  s.loadCop 1 (encode (.lwc1 base rt offset)) base offset

/-- SWC1 (45 R443). -/
def execSwc1 (base rt : BitVec 5) (offset : BitVec 16) (s : State) : Result :=
  s.storeCop 1 (encode (.swc1 base rt offset)) base offset

/-- MTC1 (45 R444). -/
def execMtc1 (rt rd : BitVec 5) (low : BitVec 11) (s : State) : Result :=
  s.moveToCop 1 (encode (.mtc1 rt rd low)) rt

/-- MFC1 (45 R445). -/
def execMfc1 (rt rd : BitVec 5) (low : BitVec 11) (s : State) : Result :=
  s.moveFromCop 1 (encode (.mfc1 rt rd low)) rt

/-- CTC1 (45 R446). -/
def execCtc1 (rt rd : BitVec 5) (low : BitVec 11) (s : State) : Result :=
  s.moveToCop 1 (encode (.ctc1 rt rd low)) rt

/-- CFC1 (45 R447). -/
def execCfc1 (rt rd : BitVec 5) (low : BitVec 11) (s : State) : Result :=
  s.moveFromCop 1 (encode (.cfc1 rt rd low)) rt

/-- COP1 (45 R448). -/
def execCop1 (cofun : BitVec 25) (s : State) : Result := s.copOperation 1 (encode (.cop1 cofun))

/-- LWC2 (45 R442). -/
def execLwc2 (base rt : BitVec 5) (offset : BitVec 16) (s : State) : Result :=
  s.loadCop 2 (encode (.lwc2 base rt offset)) base offset

/-- SWC2 (45 R443). -/
def execSwc2 (base rt : BitVec 5) (offset : BitVec 16) (s : State) : Result :=
  s.storeCop 2 (encode (.swc2 base rt offset)) base offset

/-- MTC2 (45 R444). -/
def execMtc2 (rt rd : BitVec 5) (low : BitVec 11) (s : State) : Result :=
  s.moveToCop 2 (encode (.mtc2 rt rd low)) rt

/-- MFC2 (45 R445). -/
def execMfc2 (rt rd : BitVec 5) (low : BitVec 11) (s : State) : Result :=
  s.moveFromCop 2 (encode (.mfc2 rt rd low)) rt

/-- CTC2 (45 R446). -/
def execCtc2 (rt rd : BitVec 5) (low : BitVec 11) (s : State) : Result :=
  s.moveToCop 2 (encode (.ctc2 rt rd low)) rt

/-- CFC2 (45 R447). -/
def execCfc2 (rt rd : BitVec 5) (low : BitVec 11) (s : State) : Result :=
  s.moveFromCop 2 (encode (.cfc2 rt rd low)) rt

/-- COP2 (45 R448). -/
def execCop2 (cofun : BitVec 25) (s : State) : Result := s.copOperation 2 (encode (.cop2 cofun))

/-- LWC3 (45 R442). -/
def execLwc3 (base rt : BitVec 5) (offset : BitVec 16) (s : State) : Result :=
  s.loadCop 3 (encode (.lwc3 base rt offset)) base offset

/-- SWC3 (45 R443). -/
def execSwc3 (base rt : BitVec 5) (offset : BitVec 16) (s : State) : Result :=
  s.storeCop 3 (encode (.swc3 base rt offset)) base offset

/-- MTC3 (45 R444). -/
def execMtc3 (rt rd : BitVec 5) (low : BitVec 11) (s : State) : Result :=
  s.moveToCop 3 (encode (.mtc3 rt rd low)) rt

/-- MFC3 (45 R445). -/
def execMfc3 (rt rd : BitVec 5) (low : BitVec 11) (s : State) : Result :=
  s.moveFromCop 3 (encode (.mfc3 rt rd low)) rt

/-- CTC3 (45 R446). -/
def execCtc3 (rt rd : BitVec 5) (low : BitVec 11) (s : State) : Result :=
  s.moveToCop 3 (encode (.ctc3 rt rd low)) rt

/-- CFC3 (45 R447). -/
def execCfc3 (rt rd : BitVec 5) (low : BitVec 11) (s : State) : Result :=
  s.moveFromCop 3 (encode (.cfc3 rt rd low)) rt

/-- COP3 (45 R448). -/
def execCop3 (cofun : BitVec 25) (s : State) : Result := s.copOperation 3 (encode (.cop3 cofun))

/-- BC0F (45 R449). -/
def execBc0f (offset : BitVec 16) (s : State) : Result :=
  s.copBranch 0 (encode (.bc0f offset)) false offset

/-- BC0T (45 R450). -/
def execBc0t (offset : BitVec 16) (s : State) : Result :=
  s.copBranch 0 (encode (.bc0t offset)) true offset

/-- BC0FL (45 R451). -/
def execBc0fl (offset : BitVec 16) (s : State) : Result :=
  s.copBranchLikely 0 (encode (.bc0fl offset)) false offset

/-- BC0TL (45 R452). -/
def execBc0tl (offset : BitVec 16) (s : State) : Result :=
  s.copBranchLikely 0 (encode (.bc0tl offset)) true offset

/-- BC1F (45 R449). -/
def execBc1f (offset : BitVec 16) (s : State) : Result :=
  s.copBranch 1 (encode (.bc1f offset)) false offset

/-- BC1T (45 R450). -/
def execBc1t (offset : BitVec 16) (s : State) : Result :=
  s.copBranch 1 (encode (.bc1t offset)) true offset

/-- BC1FL (45 R451). -/
def execBc1fl (offset : BitVec 16) (s : State) : Result :=
  s.copBranchLikely 1 (encode (.bc1fl offset)) false offset

/-- BC1TL (45 R452). -/
def execBc1tl (offset : BitVec 16) (s : State) : Result :=
  s.copBranchLikely 1 (encode (.bc1tl offset)) true offset

/-- BC2F (45 R449). -/
def execBc2f (offset : BitVec 16) (s : State) : Result :=
  s.copBranch 2 (encode (.bc2f offset)) false offset

/-- BC2T (45 R450). -/
def execBc2t (offset : BitVec 16) (s : State) : Result :=
  s.copBranch 2 (encode (.bc2t offset)) true offset

/-- BC2FL (45 R451). -/
def execBc2fl (offset : BitVec 16) (s : State) : Result :=
  s.copBranchLikely 2 (encode (.bc2fl offset)) false offset

/-- BC2TL (45 R452). -/
def execBc2tl (offset : BitVec 16) (s : State) : Result :=
  s.copBranchLikely 2 (encode (.bc2tl offset)) true offset

/-- BC3F (45 R449). -/
def execBc3f (offset : BitVec 16) (s : State) : Result :=
  s.copBranch 3 (encode (.bc3f offset)) false offset

/-- BC3T (45 R450). -/
def execBc3t (offset : BitVec 16) (s : State) : Result :=
  s.copBranch 3 (encode (.bc3t offset)) true offset

/-- BC3FL (45 R451). -/
def execBc3fl (offset : BitVec 16) (s : State) : Result :=
  s.copBranchLikely 3 (encode (.bc3fl offset)) false offset

/-- BC3TL (45 R452). -/
def execBc3tl (offset : BitVec 16) (s : State) : Result :=
  s.copBranchLikely 3 (encode (.bc3tl offset)) true offset

end Sys2Proof.Machine
end

