-- ==== Sys2Proof/Machine/Cp0.lean ====
section
/-! DEFINITION. System control coprocessor instructions (46). -/

namespace Sys2Proof.Machine

/-- MFC0 and MTC0 of Rotate and CMask need no usable CP0 (46 R460). -/
def alwaysAccessible (rd : BitVec 5) : Bool := rd == 23 || rd == 24

/-- MFC0 (46 R461). -/
def execMfc0 (rt rd : BitVec 5) (s : State) : Result :=
  if alwaysAccessible rd || s.copUsable 0 then
    Res.settle ((s.cp0Read rd).andThen fun v t => .ok (t.setReg rt v).advance t)
  else s.raised (.cpu 0)

/-- Why an MTC0 of `v` to register `rd` cannot go on: only a value CCC must not take (93 I30). -/
def State.mtc0Stop (s : State) (rd : BitVec 5) (v : Word) : Option Refusal := if rd = 16 then s.cccStop v else none

/-- MTC0 (46 R462). -/
def execMtc0 (rt rd : BitVec 5) (s : State) : Result :=
  if alwaysAccessible rd || s.copUsable 0 then
    (match s.mtc0Stop rd (s.reg rt) with
     | some r => .refused r
     | none => .next (s.cp0Write rd (s.reg rt)).advance)
  else s.raised (.cpu 0)

/-- A TLB instruction: CpU with CE = 0 unless CP0 is usable and the TLB is there and enabled (46 section 3). -/
def State.withTlb (s : State) (f : Result) : Result :=
  s.withCp0 (if s.tlbEnabled then f else s.raised (.cpu 0))

/-- A TLB index names an entry that exists (93 I26). -/
def State.withIndex (s : State) (f : BitVec 5 → Result) : Result :=
  if s.tlbIndex.toNat ≤ s.cfg.tlbLast.toNat then f s.tlbIndex else .refused .tlbIndexRange

/-- The registers an entry is read into; the instruction TLB is purged (46 R463). It ends the distances of MTC0s to them
(log entry 17). -/
def State.readEntry (s : State) (e : TlbEntry) : State :=
  { s.endHazards [.pageMask, .entryHi, .entryLo] with
    cp0 := { s.cp0 with pageMask := e.mask, entryHi := e.hi, entryLo := e.lo }
    itlb := [] }

/-- TLBR (46 R463). The next load or store may still see the ASID from before it (70 R630). -/
def execTlbr (s : State) : Result :=
  s.withTlb (s.withIndex fun i =>
    .next { (s.readEntry (s.tlb[i.toNat]'(i.isLt))).advance with
      tlbRecent := some (.read (s.cp0.entryHi.extractLsb' 0 8)) })

/-- TLBWI (46 R464). -/
def execTlbwi (s : State) : Result :=
  s.withTlb (s.withIndex fun i => .next ((s.advance).writeTlb i))

/-- TLBWR (46 R465). -/
def execTlbwr (s : State) : Result :=
  s.withTlb (match s.randomIndex with
    | some i => .next ((s.advance).writeTlb i)
    | none => .refused .wiredRange)

/-- The address a probe looks up (46 R466). -/
def State.probeAddress (s : State) : Word := s.seen .entryHi s.cp0.entryHi &&& 0xFFFFF000

/-- Write Index (46 R466). It ends the distance of an MTC0 to it (log entry 17). -/
def State.setIndex (s : State) (v : Word) : State := { s.endHazards [.index] with cp0 := { s.cp0 with index := v } }

/-- Index after a probe that finds nothing: P is 1, Index[4:0] is any value (46 R466, 93 I13). -/
def State.probeMiss (s : State) : Word :=
  0x80000000 ||| match s.env.choice.probeIndex with
    | some i => i.zeroExtend 32
    | none => s.cp0.index &&& 0x1F

/-- TLBP (46 R466). -/
def execTlbp (s : State) : Result :=
  s.withTlb (match tlbHits s.tlb s.cfg.tlbLast s.asid s.probeAddress with
    | [] => .next (s.setIndex s.probeMiss).advance
    | [(_, i)] => .next (s.setIndex (BitVec.ofNat 32 i)).advance
    | _ :: _ :: _ => .refused .tlbMultipleMatch)

/-- RFE (46 R467). -/
def execRfe (s : State) : Result :=
  s.withCp0 (if !s.r3000 then s.raised .ri
    else if s.inSlot && !s.slotOfJr then .refused .rfeInDelaySlot
    else .next (s.popMode).advance)

/-- ERET (46 R468). -/
def execEret (s : State) : Result :=
  s.withCp0 (if s.r3000 then s.raised .ri
    else if s.inSlot then .refused .eretInDelaySlot
    else .next s.returnFromException)

/-- The two words after the instruction are NOPs (46 R469, 30 R251); a word that a fetch of this step would not get is
none (log entry 21). -/
def State.nopsAfter (s : State) : Bool := s.peek s.npc == some 0 && s.peek (s.npc + 4) == some 0

/-- WAITI (46 R469). Without the two NOPs, up to two instructions already fetched may still execute (70 R634). -/
def execWaiti (s : State) : Result :=
  s.withCp0 (.next { s.advance with waiting := true, waitSlip := if s.nopsAfter then 0 else 2 })

end Sys2Proof.Machine
end

