-- ==== Sys2Proof/Machine/CacheOps.lean ====
section
/-! DEFINITION. Cache instructions (47) and the words outside the opcode table. -/

namespace Sys2Proof.Machine

/-- A CACHE word: RI unless CP0 is usable (47 R480). -/
def State.withCache (s : State) (f : Result) : Result := if s.copUsable 0 then f else s.raised .ri

/-- Write back the line of set `w`, if that set takes part (47 R484). -/
def State.writeBackSet (s : State) (on w : Bool) (line : Nat) : Res Unit :=
  if on then s.writeBackLine w line else .ok () s

/-- Write back both lines of one index, set 0's first (47 R484, log entry 33). -/
def State.writeBackIndex (s : State) (ea : Word) : Res Unit :=
  (s.writeBackSet s.dOn0 false (lineOf s.dsize ea)).andThen fun _ t => t.writeBackSet s.dOn1 true (lineOf s.dsize ea)

/-- The effect of a cache instruction (47 R481 to R484). -/
def State.perform (s : State) : CacheOp → Res Unit
  | .flushI => .ok () s.flushI
  | .flushD => .ok () s.flushD
  | .flushID => .ok () (s.flushI).flushD
  | .writeBack ea => s.writeBackIndex ea

/-- The three words after the instruction are NOPs (70 R633, 30 R251); a word that a fetch of this step would not get is
none (log entry 20). -/
def State.threeNops (s : State) : Bool := s.nopsAfter && s.peek (s.npc + 8) == some 0

/-- A cache instruction: behind it come three NOPs, or the next three instructions may not see its effect yet
(70 R633). -/
def State.cacheOp (s : State) (op : CacheOp) : Result :=
  s.withCache
    (if s.threeNops || !s.env.choice.late then Res.settle ((s.perform op).andThen fun _ t => .ok t.advance t)
     else .next { s.advance with cacheDue := s.cacheDue ++ [{ op := op, left := 3 }] })

/-- A cache instruction not seen yet takes effect, on the sets CCC names by then (log entry 20). One whose write the bus
never answers stays due: log entry 32. -/
def State.performLate (s : State) (d : DueOp) : State :=
  match s.perform d.op with
  | .ok _ t => t
  | .raise _ _ | .abandon _ | .fault _ | .refuse _ => { s with cacheDue := s.cacheDue ++ [d] }

/-- Cache instructions not seen yet take effect, unless the next instruction still sees the cache before them
(70 R633). Several of them take effect together, by the oldest one's time; a step that ends in the entry of an exception,
an interrupt or a Debug exception counts as one of the three, and the handler may see the old cache: DESIGN CHOICE, log
entry 20. -/
def State.settleCache (s : State) : State :=
  if s.env.choice.late && s.cacheDue.all fun d => d.left != 0 then
    { s with cacheDue := s.cacheDue.map fun d => { d with left := d.left - 1 } }
  else s.cacheDue.foldl State.performLate { s with cacheDue := [] }

/-- FLUSHI (47 R481). -/
def execFlushi (s : State) : Result := s.cacheOp .flushI

/-- FLUSHD (47 R482). -/
def execFlushd (s : State) : Result := s.cacheOp .flushD

/-- FLUSHID (47 R483). -/
def execFlushid (s : State) : Result := s.cacheOp .flushID

/-- WB (47 R484). -/
def execWb (base : BitVec 5) (offset : BitVec 16) (s : State) : Result :=
  s.cacheOp (.writeBack (s.ea base offset))

/-! ### Words outside the opcode table (30 R246, R248, 46 R460, 47 R485) -/

/-- What a word that is no instruction of the table does. A reserved COPz sub-operation raises RI, of COP0 too (log entry
54). CACHE 00101 to 00111 that act as WB do so at once, whatever stands behind them (log entry 36). -/
def execUnlisted (d : Decoded) (s : State) : Result :=
  match d with
  | .instr _ => s.raised .ri
  | .reserved => s.raised .ri
  | .copReserved z => if s.copUsable z then s.raised .ri else s.raised (.cpu z)
  | .cp0Silent => s.withCp0 (.next s.advance)
  | .cfc0 rt => s.withCp0 (s.result rt (Config.freeWord .cfc0 s.tick))
  | .ctc0 => s.withCp0 (.next s.advance)
  | .cacheSilent => s.withCache (.next s.advance)
  | .cacheAlias base offset =>
    s.withCache
      (if s.env.choice.silentWb then
         Res.settle ((s.writeBackIndex (s.ea base offset)).andThen fun _ t => .ok t.advance t)
       else .next s.advance)

end Sys2Proof.Machine
end

