-- ==== Sys2Proof/Machine/Dispatch.lean ====
section
/-! DEFINITION. One arm per instruction; each calls its meaning. -/

namespace Sys2Proof.Machine

/-- What an instruction does (30 R253 names the rule of each). -/
def exec (i : Instr) (s : State) : Host.Outcome State Fault Refusal :=
  match i with
  | .lb base rt offset => Sys2Proof.Machine.execLb base rt offset s
  | .lh base rt offset => Sys2Proof.Machine.execLh base rt offset s
  | .lwl base rt offset => Sys2Proof.Machine.execLwl base rt offset s
  | .lw base rt offset => Sys2Proof.Machine.execLw base rt offset s
  | .lbu base rt offset => Sys2Proof.Machine.execLbu base rt offset s
  | .lhu base rt offset => Sys2Proof.Machine.execLhu base rt offset s
  | .lwr base rt offset => Sys2Proof.Machine.execLwr base rt offset s
  | .sb base rt offset => Sys2Proof.Machine.execSb base rt offset s
  | .sh base rt offset => Sys2Proof.Machine.execSh base rt offset s
  | .swl base rt offset => Sys2Proof.Machine.execSwl base rt offset s
  | .sw base rt offset => Sys2Proof.Machine.execSw base rt offset s
  | .swr base rt offset => Sys2Proof.Machine.execSwr base rt offset s
  | .ll base rt offset => Sys2Proof.Machine.execLl base rt offset s
  | .sc base rt offset => Sys2Proof.Machine.execSc base rt offset s
  | .sync => Sys2Proof.Machine.execSync s
  | .addi rs rt imm => Sys2Proof.Machine.execAddi rs rt imm s
  | .addiu rs rt imm => Sys2Proof.Machine.execAddiu rs rt imm s
  | .slti rs rt imm => Sys2Proof.Machine.execSlti rs rt imm s
  | .sltiu rs rt imm => Sys2Proof.Machine.execSltiu rs rt imm s
  | .andi rs rt imm => Sys2Proof.Machine.execAndi rs rt imm s
  | .ori rs rt imm => Sys2Proof.Machine.execOri rs rt imm s
  | .xori rs rt imm => Sys2Proof.Machine.execXori rs rt imm s
  | .lui rt imm => Sys2Proof.Machine.execLui rt imm s
  | .add rs rt rd => Sys2Proof.Machine.execAdd rs rt rd s
  | .addu rs rt rd => Sys2Proof.Machine.execAddu rs rt rd s
  | .sub rs rt rd => Sys2Proof.Machine.execSub rs rt rd s
  | .subu rs rt rd => Sys2Proof.Machine.execSubu rs rt rd s
  | .slt rs rt rd => Sys2Proof.Machine.execSlt rs rt rd s
  | .sltu rs rt rd => Sys2Proof.Machine.execSltu rs rt rd s
  | .and rs rt rd => Sys2Proof.Machine.execAnd rs rt rd s
  | .or rs rt rd => Sys2Proof.Machine.execOr rs rt rd s
  | .xor rs rt rd => Sys2Proof.Machine.execXor rs rt rd s
  | .nor rs rt rd => Sys2Proof.Machine.execNor rs rt rd s
  | .sll rt rd shamt => Sys2Proof.Machine.execSll rt rd shamt s
  | .srl rt rd shamt => Sys2Proof.Machine.execSrl rt rd shamt s
  | .sra rt rd shamt => Sys2Proof.Machine.execSra rt rd shamt s
  | .sllv rs rt rd => Sys2Proof.Machine.execSllv rs rt rd s
  | .srlv rs rt rd => Sys2Proof.Machine.execSrlv rs rt rd s
  | .srav rs rt rd => Sys2Proof.Machine.execSrav rs rt rd s
  | .mult rs rt => Sys2Proof.Machine.execMult rs rt s
  | .multu rs rt => Sys2Proof.Machine.execMultu rs rt s
  | .div rs rt => Sys2Proof.Machine.execDiv rs rt s
  | .divu rs rt => Sys2Proof.Machine.execDivu rs rt s
  | .mfhi rd => Sys2Proof.Machine.execMfhi rd s
  | .mflo rd => Sys2Proof.Machine.execMflo rd s
  | .mthi rs => Sys2Proof.Machine.execMthi rs s
  | .mtlo rs => Sys2Proof.Machine.execMtlo rs s
  | .addciu rs rt imm => Sys2Proof.Machine.execAddciu rs rt imm s
  | .ffs rs rd => Sys2Proof.Machine.execFfs rs rd s
  | .ffc rs rd => Sys2Proof.Machine.execFfc rs rd s
  | .min rs rt rd => Sys2Proof.Machine.execMin rs rt rd s
  | .max rs rt rd => Sys2Proof.Machine.execMax rs rt rd s
  | .selsr rs rt rd => Sys2Proof.Machine.execSelsr rs rt rd s
  | .selsl rs rt rd => Sys2Proof.Machine.execSelsl rs rt rd s
  | .madd rs rt => Sys2Proof.Machine.execMadd rs rt s
  | .maddu rs rt => Sys2Proof.Machine.execMaddu rs rt s
  | .msub rs rt => Sys2Proof.Machine.execMsub rs rt s
  | .msubu rs rt => Sys2Proof.Machine.execMsubu rs rt s
  | .j target => Sys2Proof.Machine.execJ target s
  | .jal target => Sys2Proof.Machine.execJal target s
  | .jr rs => Sys2Proof.Machine.execJr rs s
  | .jalr rs rd => Sys2Proof.Machine.execJalr rs rd s
  | .beq rs rt offset => Sys2Proof.Machine.execBeq rs rt offset s
  | .bne rs rt offset => Sys2Proof.Machine.execBne rs rt offset s
  | .beql rs rt offset => Sys2Proof.Machine.execBeql rs rt offset s
  | .bnel rs rt offset => Sys2Proof.Machine.execBnel rs rt offset s
  | .blez rs offset => Sys2Proof.Machine.execBlez rs offset s
  | .bgtz rs offset => Sys2Proof.Machine.execBgtz rs offset s
  | .blezl rs offset => Sys2Proof.Machine.execBlezl rs offset s
  | .bgtzl rs offset => Sys2Proof.Machine.execBgtzl rs offset s
  | .bltz rs offset => Sys2Proof.Machine.execBltz rs offset s
  | .bgez rs offset => Sys2Proof.Machine.execBgez rs offset s
  | .bltzl rs offset => Sys2Proof.Machine.execBltzl rs offset s
  | .bgezl rs offset => Sys2Proof.Machine.execBgezl rs offset s
  | .bltzal rs offset => Sys2Proof.Machine.execBltzal rs offset s
  | .bgezal rs offset => Sys2Proof.Machine.execBgezal rs offset s
  | .bltzall rs offset => Sys2Proof.Machine.execBltzall rs offset s
  | .bgezall rs offset => Sys2Proof.Machine.execBgezall rs offset s
  | .tge rs rt => Sys2Proof.Machine.execTge rs rt s
  | .tgeu rs rt => Sys2Proof.Machine.execTgeu rs rt s
  | .tlt rs rt => Sys2Proof.Machine.execTlt rs rt s
  | .tltu rs rt => Sys2Proof.Machine.execTltu rs rt s
  | .teq rs rt => Sys2Proof.Machine.execTeq rs rt s
  | .tne rs rt => Sys2Proof.Machine.execTne rs rt s
  | .tgei rs imm => Sys2Proof.Machine.execTgei rs imm s
  | .tgeiu rs imm => Sys2Proof.Machine.execTgeiu rs imm s
  | .tlti rs imm => Sys2Proof.Machine.execTlti rs imm s
  | .tltiu rs imm => Sys2Proof.Machine.execTltiu rs imm s
  | .teqi rs imm => Sys2Proof.Machine.execTeqi rs imm s
  | .tnei rs imm => Sys2Proof.Machine.execTnei rs imm s
  | .syscall code => Sys2Proof.Machine.execSyscall code s
  | .brk code => Sys2Proof.Machine.execBrk code s
  | .lwc1 base rt offset => Sys2Proof.Machine.execLwc1 base rt offset s
  | .swc1 base rt offset => Sys2Proof.Machine.execSwc1 base rt offset s
  | .mtc1 rt rd low => Sys2Proof.Machine.execMtc1 rt rd low s
  | .mfc1 rt rd low => Sys2Proof.Machine.execMfc1 rt rd low s
  | .ctc1 rt rd low => Sys2Proof.Machine.execCtc1 rt rd low s
  | .cfc1 rt rd low => Sys2Proof.Machine.execCfc1 rt rd low s
  | .cop1 cofun => Sys2Proof.Machine.execCop1 cofun s
  | .lwc2 base rt offset => Sys2Proof.Machine.execLwc2 base rt offset s
  | .swc2 base rt offset => Sys2Proof.Machine.execSwc2 base rt offset s
  | .mtc2 rt rd low => Sys2Proof.Machine.execMtc2 rt rd low s
  | .mfc2 rt rd low => Sys2Proof.Machine.execMfc2 rt rd low s
  | .ctc2 rt rd low => Sys2Proof.Machine.execCtc2 rt rd low s
  | .cfc2 rt rd low => Sys2Proof.Machine.execCfc2 rt rd low s
  | .cop2 cofun => Sys2Proof.Machine.execCop2 cofun s
  | .lwc3 base rt offset => Sys2Proof.Machine.execLwc3 base rt offset s
  | .swc3 base rt offset => Sys2Proof.Machine.execSwc3 base rt offset s
  | .mtc3 rt rd low => Sys2Proof.Machine.execMtc3 rt rd low s
  | .mfc3 rt rd low => Sys2Proof.Machine.execMfc3 rt rd low s
  | .ctc3 rt rd low => Sys2Proof.Machine.execCtc3 rt rd low s
  | .cfc3 rt rd low => Sys2Proof.Machine.execCfc3 rt rd low s
  | .cop3 cofun => Sys2Proof.Machine.execCop3 cofun s
  | .bc0f offset => Sys2Proof.Machine.execBc0f offset s
  | .bc0t offset => Sys2Proof.Machine.execBc0t offset s
  | .bc0fl offset => Sys2Proof.Machine.execBc0fl offset s
  | .bc0tl offset => Sys2Proof.Machine.execBc0tl offset s
  | .bc1f offset => Sys2Proof.Machine.execBc1f offset s
  | .bc1t offset => Sys2Proof.Machine.execBc1t offset s
  | .bc1fl offset => Sys2Proof.Machine.execBc1fl offset s
  | .bc1tl offset => Sys2Proof.Machine.execBc1tl offset s
  | .bc2f offset => Sys2Proof.Machine.execBc2f offset s
  | .bc2t offset => Sys2Proof.Machine.execBc2t offset s
  | .bc2fl offset => Sys2Proof.Machine.execBc2fl offset s
  | .bc2tl offset => Sys2Proof.Machine.execBc2tl offset s
  | .bc3f offset => Sys2Proof.Machine.execBc3f offset s
  | .bc3t offset => Sys2Proof.Machine.execBc3t offset s
  | .bc3fl offset => Sys2Proof.Machine.execBc3fl offset s
  | .bc3tl offset => Sys2Proof.Machine.execBc3tl offset s
  | .mtc0 rt rd => Sys2Proof.Machine.execMtc0 rt rd s
  | .mfc0 rt rd => Sys2Proof.Machine.execMfc0 rt rd s
  | .tlbr => Sys2Proof.Machine.execTlbr s
  | .tlbwi => Sys2Proof.Machine.execTlbwi s
  | .tlbwr => Sys2Proof.Machine.execTlbwr s
  | .tlbp => Sys2Proof.Machine.execTlbp s
  | .rfe => Sys2Proof.Machine.execRfe s
  | .eret => Sys2Proof.Machine.execEret s
  | .waiti => Sys2Proof.Machine.execWaiti s
  | .flushi => Sys2Proof.Machine.execFlushi s
  | .flushd => Sys2Proof.Machine.execFlushd s
  | .flushid => Sys2Proof.Machine.execFlushid s
  | .wb base offset => Sys2Proof.Machine.execWb base offset s

end Sys2Proof.Machine
end

