-- ==== Sys2Proof/Machine/Inputs.lean ====
section
/-! DEFINITION. What happens at an instruction boundary before an instruction runs: the inputs are sampled, the clock
moves Count and Random, events are latched (10 R90, R91, 60 R553). -/

namespace Sys2Proof.Machine

/-- The level-sensitive inputs stay as they are where the script ends; strobes are gone. -/
def Pins.hold (p : Pins) : Pins :=
  { p with errFetch := false, errRead := false, errWrite := false, goodWrites := [], errLater := false,
           errArrives := false, hang := false, snoops := [], masterWrites := [], deviceWrites := [], rxBytes := [], txDone := false }

/-- The inputs of this step and those left for later. -/
def State.nextEnv (s : State) : Env × List Env :=
  match s.script with
  | [] => ({ s.env with pins := s.env.pins.hold, clocks := none }, [])
  | e :: es => (e, es)

/-- Take the inputs of this step; nothing is shown outside yet. -/
def State.takeEnv (s : State) : State :=
  { s with env := (s.nextEnv).1, script := (s.nextEnv).2, out := .none }

/-- The clocks of this step (10 R42, 92 D14). -/
def State.clocks (s : State) : Nat := s.env.clocks.getD (Config.freeClocks s.tick)

/-- Count passes through the value of Compare within `n` clocks (60 R553). -/
def State.timerMatch (s : State) (n : Nat) : Bool := decide ((s.cp0.compare - s.cp0.count - 1).toNat < n)

/-- Count advances; a match is latched while CCC.TMR is 1 (60 R553). -/
def State.runTimer (s : State) : State :=
  { s with
    cp0 := { s.cp0 with count := s.cp0.count + BitVec.ofNat 32 s.clocks }
    timerPending := s.timerPending || (Ccc.tmr s.cp0.ccc && s.timerMatch s.clocks) }

/-- Random moves to some value between Wired and the last entry (10 R35, 92 D15). -/
def State.runRandom (s : State) : State :=
  match s.randomAt s.tick with
  | some r => { s with cp0 := { s.cp0 with random := r.zeroExtend 32 } }
  | none => s

/-- Other bus masters and devices write memory; masters only while CCC.BEG is 1 (10 R62, 20 R124). -/
def State.externalWrites (s : State) : State :=
  let m := if Ccc.beg s.cp0.ccc then Memory.writeCells s.mem s.env.pins.masterWrites else s.mem
  { s with mem := Memory.writeCells m s.env.pins.deviceWrites }

/-- The snoop invalidations of this step (20 R176). -/
def State.runSnoops (s : State) : State := s.env.pins.snoops.foldl State.snoop s

/-- A reset input is asserted, or is released just now (60 R544, R545). -/
def State.resetHeld (s : State) : Bool := s.env.pins.cold || s.env.pins.warm || s.coldLevel || s.warmLevel

/-- The serial line of the ICEport; the ICEport is in reset while a reset input is asserted (60 R570), and receives again
after the step that sees the release (log entry 6). -/
def State.runUart (s : State) : State :=
  if s.resetHeld then { s with uart := s.uart.clear }
  else if s.cfg.iceportPresent then
    let u := s.env.pins.rxBytes.foldl Uart.receive s.uart
    { s with uart := { u with txReady := u.txReady || s.env.pins.txDone } }
  else s

/-- The level of NMin, the ICEport's line among its drivers (60 R571). -/
def State.nmiInput (s : State) : Bool :=
  s.env.pins.nmi || (s.cfg.iceportLine == .nmi && s.iceportInt)

/-- A falling edge of NMin is latched (10 R90). -/
def State.latchNmi (s : State) : State :=
  { s with nmiPending := s.nmiPending || (s.nmiInput && !s.nmiLevel), nmiLevel := s.nmiInput }

/-- A bus error of an earlier transaction arrives (92 D25, 93 I44). -/
def State.latchBusError (s : State) : State :=
  { s with busErrPending := s.busErrPending || s.env.pins.errArrives }

/-- Everything that happens at the boundary before an instruction. -/
def State.sample (s : State) : State :=
  ((((((s.takeEnv).runTimer).runRandom).externalWrites).runSnoops).runUart.latchNmi).latchBusError

/-- What the trace facility owes moves on; the target of a traced transfer has its event due (60 R563). -/
def State.ageTrace (s : State) : State :=
  match s.trace with
  | .idle => s
  | .slot => { s with trace := .target }
  | .target => { s with trace := .idle }.debugIsDue

/-- What comes before the fetch: the trace facility and the hazards of cache instructions and of WAITI move on. -/
def State.beginStep (s : State) : State :=
  let t := (s.ageTrace).settleCache
  { t with waitSlip := t.waitSlip - 1 }

/-- The end of a step: the chosen number of buffered stores leaves, and the next step draws afresh. -/
def State.finish (s : State) : State :=
  let t := s.drain s.env.choice.drain
  { t with tick := t.tick + 1 }

end Sys2Proof.Machine
end

