-- ==== Sys2Proof/Machine/Cycle.lean ====
section
/-! DEFINITION. One step of the machine (60 R511, 43 R370). -/

namespace Sys2Proof.Machine

/-- Lines 8 to 12 of 60 R511: `pre` is the state the instruction executed on, `r` its outcome. A fault or refusal is
reported even where an interrupt or a Debug exception is due: log entry 57. -/
def State.resolve (pre : State) (r : Result) : Result :=
  match r with
  | .next t =>
    if t.out.event.isSome then .next t.finish
    else if pre.intDue then .next (pre.takeException .int).finish
    else if pre.eviDue then .next (pre.takeEvi).finish
    else if t.out.debugDue && pre.debugTaken then
      .next (((pre.setDcs (t.out.dataBits &&& 0x3F)).leakNext).takeDebug).finish
    else .next (t.ageHazards).finish
  | .fault f => .fault f
  | .refused r => .refused r

/-- What a fetched word does: an instruction of the table, or a word outside it (30 R225). -/
def execWord (w : Word) (s : State) : Result :=
  match decode w with
  | .instr i => exec i s
  | d => execUnlisted d s

/-- Lines 6 to 12: the word `w` has been fetched (60 R511). -/
def State.runFetched (s : State) (w : Word) : Result :=
  if s.busErrPending then .next (s.takeException .bus).finish else s.resolve (execWord w s)

/-- Lines 5 to 12: fetch and run one instruction (60 R511). -/
def State.runOne (s : State) : Result :=
  match s.fetch s.pc with
  | .ok w t => t.runFetched w
  | .raise e t => t.resolve (t.raised e)
  | .abandon t => t.resolve (.next t)
  | .fault f => .fault f
  | .refuse r => .refused r

/-- The wait state goes on: no interrupt is due (60 R590) and no instruction already fetched slips through
(70 R634). -/
def State.staysWaiting (s : State) : Bool :=
  s.waiting && !s.intDue && !s.eviDue && !(s.waitSlip != 0 && s.env.choice.slip)

/-- Lines 1 to 4, then the instruction (60 R511). A reset input holds the core idle while it is asserted (70 R600);
buffered stores drain meanwhile, to the ICEport too (log entry 6). -/
def State.boundary (s : State) : Result :=
  if s.env.pins.cold then .next { s with coldLevel := true, warmLevel := s.warmLevel || s.env.pins.warm }.finish
  else if s.coldLevel then .next { s.takeCold with coldLevel := false, warmLevel := s.env.pins.warm }.finish
  else if s.env.pins.warm then .next { s with warmLevel := true }.finish
  else if s.warmLevel then .next { s.takeWarm with warmLevel := false }.finish
  else if s.nmiPending then .next (s.takeNmi).finish
  else if s.staysWaiting then .next { s with waitSlip := 0 }.finish
  else if s.reservedMode then .refused .reservedKsu
  else (s.beginStep).runOne

/-- One step: sample the inputs, then the boundary. -/
def State.cycle (s : State) : Result := (s.sample).boundary

end Sys2Proof.Machine
end

