-- ==== Sys2Proof/Machine/Step.lean ====
section
/-! DEFINITION. The step function and the program placement the host uses; both only call mendable definitions. -/

namespace Sys2Proof.Machine

/-- One step of the machine (60 R511). -/
def step (s : State) : Host.Outcome State Fault Refusal := s.cycle

/-- `s` with the instruction word `w` of `nbits` bits where the next step fetches (log entry 5). -/
def State.withFetchWord (s : State) (nbits w : Nat) : State := s.placeWord (BitVec.ofNat 32 (w % 2 ^ nbits))

end Sys2Proof.Machine
end

