-- ==== Sys2Proof/Safety.lean ====
section
/-! DEFINITION. What a safe state is, and the words statements about the machine use: the invariant, the frames, and
the conditions under which an access or a boundary is undisturbed. Nothing here is part of the machine. -/

namespace Sys2Proof.Machine

-- Many small declarations: elaborating them one after another keeps the memory of the check low.
set_option Elab.async false

/-! ### The invariant every step keeps -/

/-- Only bits of `mask` are set. -/
def Within (mask w : Word) : Prop := w &&& ~~~mask = 0

/-- Every reserved bit of every CP0 register is zero (10 R32). -/
structure Cp0.Inv (c : Cp0) : Prop where
  index : Within 0x8000001F c.index
  random : Within 0x1F c.random
  entryLo : Within 0x03FFFFFF c.entryLo
  context : Within 0xFFFFFFFC c.context
  pageMask : Within 0x2000 c.pageMask
  wired : Within 0x1F c.wired
  dcs : Within 0xFF80003F c.dcs
  entryHi : Within 0xFFFFF0FF c.entryHi
  status : Within 0xF050FF3F c.status
  cause : Within 0xF000037C c.cause
  epc : Within 0xFFFFFFFC c.epc
  ccc : Within 0x17FFFFFF c.ccc
  llAddr : Within 0xFFFFFFFC c.llAddr
  bpc : Within 0xFFFFFFFC c.bpc
  bpcm : Within 0xFFFFFFFC c.bpcm
  rotate : Within 0x1F c.rotate
  cmask : Within 0x1F c.cmask
  errorEpc : Within 0xFFFFFFFC c.errorEpc

/-- Tags and data of a cache set are in canonical form. -/
structure CacheSet.Inv (c : CacheSet) : Prop where
  tags : Sparse.wf Tag.invalid c.tags = true
  data : Sparse.wf 0 c.data = true

/-- The invariant: memory and caches in canonical form, r0 holds zero, reserved bits are zero, the write buffer has at
most four entries and the instruction TLB at most two (10 R21, R32, R81, R88). -/
structure State.Inv (s : State) : Prop where
  memory : Memory.wf s.mem = true
  icache0 : s.icache.set0.Inv
  icache1 : s.icache.set1.Inv
  dcache0 : s.dcache.set0.Inv
  dcache1 : s.dcache.set1.Inv
  uses : Sparse.wf false s.imru = true
  zero : s.gpr[0] = 0
  cp0 : s.cp0.Inv
  buffer : s.wbuf.length ≤ 4
  itlb : s.itlb.length ≤ 2

/-! ### Frames -/

/-- Every byte of memory reads in `t` as in `s`. -/
def State.SameMemory (s t : State) : Prop := ∀ a, Memory.read t.mem a = Memory.read s.mem a

/-- `t` is `s` but for the general registers, HI, LO and the sequencing state: memory, CP0, the TLBs, the caches, the
write buffer, LLbit, the latches and the outputs are unchanged. -/
def State.SameSystem (s t : State) : Prop :=
  s.SameMemory t ∧
    t = { s with gpr := t.gpr, hi := t.hi, lo := t.lo, pc := t.pc, npc := t.npc, inSlot := t.inSlot, taken := t.taken,
                 slotOfJr := t.slotOfJr, tlbRecent := t.tlbRecent }

/-- The next instruction in sequence follows and is in no delay slot (43 R370, "anything else"). -/
def State.Sequential (s t : State) : Prop :=
  t.pc = s.npc ∧ t.npc = s.npc + 4 ∧ t.inSlot = false ∧ t.taken = false

/-- The general registers after `GPR[r] <- v`: a write to r0 is discarded (10 R21). -/
def State.GprsAfter (s t : State) (r : BitVec 5) (v : Word) : Prop :=
  ∀ k, t.reg k = if k = r ∧ r ≠ 0 then v else s.reg k

/-- `GPR[r] <- v` and the pc moves on; nothing else changes. -/
def State.WritesGpr (s t : State) (r : BitVec 5) (v : Word) : Prop :=
  s.GprsAfter t r v ∧ t.hi = s.hi ∧ t.lo = s.lo ∧ s.Sequential t ∧ s.SameSystem t

/-- `HI || LO <- p` and the pc moves on; nothing else changes. -/
def State.WritesHiLo (s t : State) (hi lo : Word) : Prop :=
  (∀ k, t.reg k = s.reg k) ∧ t.hi = hi ∧ t.lo = lo ∧ s.Sequential t ∧ s.SameSystem t

/-- Only the pc moves on. -/
def State.OnlyAdvances (s t : State) : Prop :=
  (∀ k, t.reg k = s.reg k) ∧ t.hi = s.hi ∧ t.lo = s.lo ∧ s.Sequential t ∧ s.SameSystem t

/-- The trace facility watches jumps and branches (60 R563). -/
def State.tracing (s : State) : Bool := s.debugOn && s.cp0.dcs.getLsbD 28

/-- What a jump or branch leaves unchanged: all but the link register `r`, the sequencing state, DCS and the trace
state. -/
def State.TransferFrame (s t : State) (r : BitVec 5) : Prop :=
  s.SameMemory t ∧ (∀ k, k ≠ r → t.reg k = s.reg k) ∧
    t = { s with gpr := t.gpr, pc := t.pc, npc := t.npc, inSlot := t.inSlot, taken := t.taken, slotOfJr := t.slotOfJr,
                 tlbRecent := none, cp0 := { s.cp0 with dcs := t.cp0.dcs }, trace := t.trace }

/-- A jump to `target` (43 R370): the delay slot comes first. -/
def State.TakenTo (s t : State) (target : Word) : Prop :=
  t.pc = s.npc ∧ t.npc = target ∧ t.inSlot = true ∧ t.taken = true ∧
    t.cp0.dcs = (if s.tracing then s.cp0.dcs ||| 0x21 else s.cp0.dcs) ∧
    t.trace = (if s.tracing then .slot else s.trace)

/-- DCS after a conditional branch, taken or not (60 R561, R563). -/
def State.dcsOfBranch (s : State) (target : Word) : Word :=
  s.cp0.dcs ||| (if s.tracing then 0x21 else 0) ||| (if s.pcEvent target then 0x3 else 0)

/-- A conditional branch to `target` that is taken (43 R370): the delay slot comes first. -/
def State.BranchTaken (s t : State) (target : Word) : Prop :=
  t.pc = s.npc ∧ t.npc = target ∧ t.inSlot = true ∧ t.taken = true ∧ t.cp0.dcs = s.dcsOfBranch target ∧
    t.trace = (if s.tracing then .slot else s.trace)

/-- An ordinary branch that is not taken (43 R370): the next instruction is still a delay slot. -/
def State.NotTaken (s t : State) (target : Word) : Prop :=
  t.pc = s.npc ∧ t.npc = s.npc + 4 ∧ t.inSlot = true ∧ t.taken = false ∧ t.cp0.dcs = s.dcsOfBranch target ∧
    t.trace = s.trace

/-- A Branch Likely that is not taken (43 R373): the slot is cancelled. -/
def State.Annulled (s t : State) (target : Word) : Prop :=
  t.pc = s.npc + 4 ∧ t.npc = s.npc + 8 ∧ t.inSlot = false ∧ t.taken = false ∧ t.cp0.dcs = s.dcsOfBranch target ∧
    t.trace = s.trace

/-- `x` is the outcome, from `s`, of a conditional branch to `target` on `cond` that may link in `r` (43 R370, R374); `r`
is 0 for no link. -/
def State.BranchOutcome (s : State) (x : Result) (r : BitVec 5) (cond : Prop) (target : Word) : Prop :=
  (cond → ∃ t, x = .next t ∧ s.BranchTaken t target ∧ s.TransferFrame t r ∧ (r ≠ 0 → t.reg r = s.pc + 8)) ∧
    (¬cond → ∃ t, x = .next t ∧ s.NotTaken t target ∧ s.TransferFrame t r ∧ (r ≠ 0 → t.reg r = s.pc + 8))

/-- The same for a Branch Likely (43 R373); `survives` says that its cancelled slot executes all the same (70 R636). -/
def State.LikelyOutcome (s : State) (x : Result) (survives : Bool) (r : BitVec 5) (cond : Prop) (target : Word) : Prop :=
  (cond → ∃ t, x = .next t ∧ s.BranchTaken t target ∧ s.TransferFrame t r ∧ (r ≠ 0 → t.reg r = s.pc + 8)) ∧
    (¬cond → ∃ t, x = .next t ∧ (if survives then s.NotTaken t target else s.Annulled t target) ∧
      s.TransferFrame t r ∧ (r ≠ 0 → t.reg r = s.pc + 8))

/-- `i` is a conditional branch to `target` on `cond` that may link in `r`. -/
def State.BranchesOn (s : State) (i : Instr) (r : BitVec 5) (cond : Prop) (target : Word) : Prop :=
  s.BranchOutcome (exec i s) r cond target

/-- `i` is such a Branch Likely. -/
def State.BranchesLikelyOn (s : State) (i : Instr) (r : BitVec 5) (cond : Prop) (target : Word) : Prop :=
  s.LikelyOutcome (exec i s) s.slotSurvives r cond target

/-- `s` with the word of `i` shown to coprocessor `z`; CP0 is shown nothing (45 R440). -/
def State.withShown (s : State) (z : BitVec 2) (i : Instr) : State :=
  if z = 0 then s else { s with out := { s.out with cop := some { unit := z, word := encode i, dataIn := none } } }

/-- The unit whose condition line a branch tests. -/
def branchUnit : Instr → Option (BitVec 2)
  | .bc0f _ | .bc0t _ | .bc0fl _ | .bc0tl _ => some 0
  | .bc1f _ | .bc1t _ | .bc1fl _ | .bc1tl _ => some 1
  | .bc2f _ | .bc2t _ | .bc2fl _ | .bc2tl _ => some 2
  | .bc3f _ | .bc3t _ | .bc3fl _ | .bc3tl _ => some 3
  | _ => none

/-- `i` is a trap on `cond` (44 R410). -/
def State.TrapsOn (s : State) (i : Instr) (cond : Prop) : Prop :=
  (cond → exec i s = s.raised .tr) ∧ (¬cond → ∃ t, exec i s = .next t ∧ s.OnlyAdvances t)

/-- `i` writes `v` to GPR[r] and does nothing else. -/
def State.Yields (s : State) (i : Instr) (r : BitVec 5) (v : Word) : Prop :=
  ∃ t, exec i s = .next t ∧ s.WritesGpr t r v

/-- A store that went to an empty write buffer: the pc moves on, the buffer holds the store, nothing else changes. -/
def State.StoreFrame (s t : State) : Prop :=
  s.SameMemory t ∧
    t = { s with pc := s.npc, npc := s.npc + 4, inSlot := false, taken := false, slotOfJr := false, tlbRecent := none,
                 wbuf := t.wbuf }

/-- Once the buffer has drained, memory reads as before but for the bytes `f` gives from `base` on. -/
def State.MemoryAfter (s t : State) (base : Word) (f : Nat → Option Byte) : Prop :=
  ∀ a : Nat, a < 2 ^ 32 → Memory.read (t.drainAll).mem a =
    if base.toNat ≤ a then (f (a - base.toNat)).getD (Memory.read s.mem a) else Memory.read s.mem a

/-- A data access changes at most general registers, memory, the write buffer and the D-cache, and the pc moves on. -/
def State.AccessFrame (s t : State) : Prop :=
  s.Sequential t ∧
    t = { s with gpr := t.gpr, mem := t.mem, wbuf := t.wbuf, dcache := t.dcache, pc := t.pc, npc := t.npc,
                 inSlot := t.inSlot, taken := t.taken, slotOfJr := t.slotOfJr, tlbRecent := none }

/-- The data of `c'` is that of `c` but for the bytes `f` gives from offset `base` on. -/
def DataAfter (c c' : CacheSet) (base : Nat) (f : Nat → Option Byte) : Prop :=
  ∀ k, Sparse.get 0 c'.data k = if base ≤ k then (f (k - base)).getD (Sparse.get 0 c.data k) else Sparse.get 0 c.data k

/-- The tags of `c'` are those of `c` but for the one of `line`, which is `g`. -/
def TagAfter (c c' : CacheSet) (line : Nat) (g : Tag) : Prop :=
  ∀ l, c'.tagAt l = if l = line then g else c.tagAt l

/-- Line `line` of `c'` holds the 32 bytes of `m` around `p` and is valid and clean; the other lines are those of `c`. -/
def FilledFrom (c c' : CacheSet) (line : Nat) (p : Word) (m : List Host.Cell) : Prop :=
  TagAfter c c' line { addr := p.extractLsb' 10 22, valid := true, dirty := false } ∧
    DataAfter c c' (32 * line) fun j => if j < 32 then some (Memory.read m ((blockBase p).toNat + j)) else none

/-- A coprocessor transfer of `i` to unit `z` with the datum `v` (45 R440): it is shown outside and the pc moves on;
nothing but a general register changes besides. -/
def State.CopFrame (s t : State) (z : BitVec 2) (i : Instr) (v : Option Word) : Prop :=
  t = { s with gpr := t.gpr, pc := s.npc, npc := s.npc + 4, inSlot := false, taken := false, slotOfJr := false,
               tlbRecent := none, out := { s.out with cop := some { unit := z, word := encode i, dataIn := v } } }

/-- Entry `i` of the TLB takes what EntryHi, EntryLo and PageMask describe (46 R464) and the pc moves on; nothing else
changes. -/
def State.WritesEntry (s t : State) (i : BitVec 5) : Prop :=
  (∀ j : Fin 32, t.tlb[j.val]'j.isLt =
    if j.val = i.toNat then
      { big := s.cp0.pageMask.getLsbD 13, vpn := s.cp0.entryHi.extractLsb' 12 20,
        asid := s.cp0.entryHi.extractLsb' 0 8, pfn := s.cp0.entryLo.extractLsb' 6 20,
        alg := s.cp0.entryLo.extractLsb' 3 3, dirty := s.cp0.entryLo.getLsbD 2, valid := s.cp0.entryLo.getLsbD 1,
        isGlobal := s.cp0.entryLo.getLsbD 0 }
    else s.tlb[j.val]'j.isLt) ∧
    t = { s with pc := s.npc, npc := s.npc + 4, inSlot := false, taken := false, slotOfJr := false, tlb := t.tlb,
                 tlbRecent := t.tlbRecent }

/-- IS and DS of `v` are the sizes the caches are built with (10 R63 (b)); a build that serves every size has none. -/
def State.SizesMatch (s : State) (v : Word) : Prop :=
  (s.cfg.icachePresent = true → ∀ c, s.cfg.icacheSize = some c → v.extractLsb' 14 2 = c) ∧
    (s.cfg.dcachePresent = true → ∀ c, s.cfg.dcacheSize = some c → v.extractLsb' 10 2 = c)

/-- CMP stays set once it is set (10 R63 (e)). -/
def State.CmpKept (s : State) (v : Word) : Prop := s.cp0.ccc.getLsbD 24 = true → v.getLsbD 24 = true

/-- Only Index changes and the pc moves on (46 R466). -/
def State.OnlyIndex (s t : State) : Prop :=
  t = { s with pc := s.npc, npc := s.npc + 4, inSlot := false, taken := false, slotOfJr := false, tlbRecent := none,
               cp0 := { s.cp0 with index := t.cp0.index } }

/-- Only cache lines change and the pc moves on (47 R480). -/
def State.FlushFrame (s t : State) : Prop :=
  t = { s with pc := s.npc, npc := s.npc + 4, inSlot := false, taken := false, slotOfJr := false, tlbRecent := none,
               icache := t.icache, dcache := t.dcache }

/-- Every line of the enabled I-cache sets is Invalid. -/
def State.IcacheInvalid (s t : State) : Prop :=
  ∀ line, (s.iOn0 = true → (t.icache.set0.tagAt line).valid = false) ∧
    (s.iOn1 = true → (t.icache.set1.tagAt line).valid = false)

/-- Every line of the enabled D-cache sets is Invalid. -/
def State.DcacheInvalid (s t : State) : Prop :=
  ∀ line, (s.dOn0 = true → (t.dcache.set0.tagAt line).valid = false ∧ (t.dcache.set0.tagAt line).dirty = false) ∧
    (s.dOn1 = true → (t.dcache.set1.tagAt line).valid = false ∧ (t.dcache.set1.tagAt line).dirty = false)

/-! ### Tables of the spec the statements use -/

/-- LWL's result by `va[1:0]`: the table of 40 R287, `b0` to `b3` the bytes of the aligned word in address order. -/
def lwlTable (bigEndian : Bool) (k : Nat) (b0 b1 b2 b3 : Byte) (r : Word) : Word :=
  match bigEndian, k with
  | false, 0 => b0 ++ r.extractLsb' 0 24
  | false, 1 => b1 ++ b0 ++ r.extractLsb' 0 16
  | false, 2 => b2 ++ b1 ++ b0 ++ r.extractLsb' 0 8
  | false, _ => b3 ++ b2 ++ b1 ++ b0
  | true, 0 => b0 ++ b1 ++ b2 ++ b3
  | true, 1 => b1 ++ b2 ++ b3 ++ r.extractLsb' 0 8
  | true, 2 => b2 ++ b3 ++ r.extractLsb' 0 16
  | true, _ => b3 ++ r.extractLsb' 0 24

/-- LWR's result by `va[1:0]` (40 R287). -/
def lwrTable (bigEndian : Bool) (k : Nat) (b0 b1 b2 b3 : Byte) (r : Word) : Word :=
  match bigEndian, k with
  | false, 0 => b3 ++ b2 ++ b1 ++ b0
  | false, 1 => r.extractLsb' 24 8 ++ b3 ++ b2 ++ b1
  | false, 2 => r.extractLsb' 16 16 ++ b3 ++ b2
  | false, _ => r.extractLsb' 8 24 ++ b3
  | true, 0 => r.extractLsb' 8 24 ++ b0
  | true, 1 => r.extractLsb' 16 16 ++ b0 ++ b1
  | true, 2 => r.extractLsb' 24 8 ++ b0 ++ b1 ++ b2
  | true, _ => b0 ++ b1 ++ b2 ++ b3

/-- Byte `n` of a word, byte 0 the least significant. -/
def byteOf (r : Word) (n : Nat) : Byte := r.extractLsb' (8 * n) 8

/-- The byte SWL stores at the aligned word's byte `j`, if it stores there, by `va[1:0]` (40 R287). -/
def swlTable (bigEndian : Bool) (k : Nat) (r : Word) (j : Nat) : Option Byte :=
  if bigEndian then (if k ≤ j ∧ j < 4 then some (byteOf r (3 - (j - k))) else none)
  else (if j ≤ k then some (byteOf r (3 - (k - j))) else none)

/-- The byte SWR stores at the aligned word's byte `j`, if it stores there, by `va[1:0]` (40 R287). -/
def swrTable (bigEndian : Bool) (k : Nat) (r : Word) (j : Nat) : Option Byte :=
  if bigEndian then (if j ≤ k then some (byteOf r (k - j)) else none)
  else (if k ≤ j ∧ j < 4 then some (byteOf r (j - k)) else none)

/-- The loads of `va` with their alignment and their result (40 R271 to R277), `b` the bytes of the aligned word in address
order and `r` the old register value. -/
def loadForms (bigEndian : Bool) (b : Nat → Byte) (r va : Word) (base rt : BitVec 5) (off : BitVec 16) :
    List (Nat × Instr × Word) :=
  let k := va.toNat % 4
  let h : BitVec 16 := if bigEndian then b k ++ b (k + 1) else b (k + 1) ++ b k
  [(1, .lb base rt off, (b k).signExtend 32), (1, .lbu base rt off, (0 : BitVec 24) ++ b k),
   (2, .lh base rt off, h.signExtend 32), (2, .lhu base rt off, (0 : BitVec 16) ++ h),
   (4, .lw base rt off, if bigEndian then b 0 ++ b 1 ++ b 2 ++ b 3 else b 3 ++ b 2 ++ b 1 ++ b 0),
   (1, .lwl base rt off, lwlTable bigEndian k (b 0) (b 1) (b 2) (b 3) r),
   (1, .lwr base rt off, lwrTable bigEndian k (b 0) (b 1) (b 2) (b 3) r)]

/-- The stores to `va` with their alignment, the address their bytes count from, and the byte they store at each place
(40 R278 to R282), `r` the register value. -/
def storeForms (bigEndian : Bool) (r va : Word) (base rt : BitVec 5) (off : BitVec 16) :
    List (Nat × Instr × Word × (Nat → Option Byte)) :=
  [(1, .sb base rt off, va, fun j => if j < 1 then some (byteOf r 0) else none),
   (2, .sh base rt off, va, fun j => if j < 2 then some (byteOf r (if bigEndian then 1 - j else j)) else none),
   (4, .sw base rt off, va, fun j => if j < 4 then some (byteOf r (if bigEndian then 3 - j else j)) else none),
   (1, .swl base rt off, va &&& 0xFFFFFFFC, swlTable bigEndian (va.toNat % 4) r),
   (1, .swr base rt off, va &&& 0xFFFFFFFC, swrTable bigEndian (va.toNat % 4) r)]

/-- The stored value of the CP0 register numbered `n` (10 R30). -/
def Cp0.field (c : Cp0) (n : BitVec 5) : Word :=
  match n with
  | 0#5 => c.index
  | 1#5 => c.random
  | 2#5 => c.entryLo
  | 4#5 => c.context
  | 5#5 => c.pageMask
  | 6#5 => c.wired
  | 7#5 => c.dcs
  | 8#5 => c.badVAddr
  | 9#5 => c.count
  | 10#5 => c.entryHi
  | 11#5 => c.compare
  | 12#5 => c.status
  | 13#5 => c.cause
  | 14#5 => c.epc
  | 16#5 => c.ccc
  | 17#5 => c.llAddr
  | 18#5 => c.bpc
  | 19#5 => c.bda
  | 20#5 => c.bpcm
  | 21#5 => c.bdam
  | 23#5 => c.rotate
  | 24#5 => c.cmask
  | 30#5 => c.errorEpc
  | _ => 0

/-- The bits MTC0 takes from the written value, register by register (46 R470). -/
def mtc0Mask (r3000 : Bool) (n : BitVec 5) : Word :=
  match n with
  | 0#5 => 0x8000001F
  | 2#5 => 0x03FFFFFF
  | 4#5 => 0xFFC00000
  | 5#5 => 0x00002000
  | 6#5 => 0x0000001F
  | 7#5 => 0xFF80003F
  | 9#5 => 0xFFFFFFFF
  | 10#5 => 0xFFFFF0FF
  | 11#5 => 0xFFFFFFFF
  | 12#5 => if r3000 then 0xF050FF3F else 0xF050FF1F
  | 13#5 => 0x00000300
  | 14#5 => 0xFFFFFFFC
  | 16#5 => 0x17FFFFFF
  | 17#5 => 0xFFFFFFFC
  | 18#5 => 0xFFFFFFFC
  | 19#5 => 0xFFFFFFFF
  | 20#5 => 0xFFFFFFFC
  | 21#5 => 0xFFFFFFFF
  | 23#5 => 0x0000001F
  | 24#5 => 0x0000001F
  | 30#5 => 0xFFFFFFFC
  | _ => 0

/-- The MMU block's registers, which exist only with a TLB (10 R33). -/
def isMmuReg (n : BitVec 5) : Bool := n == 0 || n == 1 || n == 2 || n == 4 || n == 5 || n == 6 || n == 10

/-! ### Undisturbed accesses and boundaries -/

/-- A data access at `va` of `n` bytes from `start` goes straight to the bus: kernel mode, kseg1, no breakpoint
facility, no OCAbus, no isolated cache, no scratchpad, no ICEport register (20 R121, R160). -/
structure State.PlainAccess (s : State) (va start : Word) (n : Nat) : Prop where
  kernel : s.userMode = false
  segment : inKseg1 va = true
  noDebug : s.debugOn = false
  noOca : s.env.pins.oca = none
  notIsolated : Ccc.isc s.testMode = false
  noScratch : s.dScratch start (physOfStart (va &&& 0x1FFFFFFF) start) = none
  noPort : s.touchesIceport (physOfStart (va &&& 0x1FFFFFFF) start) n = false

/-- The D-cache serves a data access at `va` in kseg0: kernel mode, an enabled set, of the size CCC names (10 R63), no
breakpoint facility, no OCAbus, no isolated cache, no scratchpad (20 R155, R160, R161). -/
structure State.CachedAccess (s : State) (va : Word) : Prop where
  kernel : s.userMode = false
  segment : va.extractLsb' 29 3 = 0b100#3
  serves : s.dCaching = true
  noDebug : s.debugOn = false
  noOca : s.env.pins.oca = none
  notIsolated : Ccc.isc s.testMode = false
  noScratch : s.cp0.ccc.getLsbD 4 = false ∧ s.cp0.ccc.getLsbD 3 = false
  built : s.dSizeBuilt = true

/-- A fetch at `va` in kseg0 goes to the I-cache (20 R155, R162). -/
structure State.CachedFetch (s : State) (va : Word) : Prop where
  kernel : s.userMode = false
  segment : va.extractLsb' 29 3 = 0b100#3
  aligned : aligned 4 va = true
  serves : s.iCaching = true
  noScratch : s.cp0.ccc.getLsbD 26 = false
  built : s.iSizeBuilt = true

/-- An access at `va` in kseg0 or kseg1 goes to set `w` of the D-cache in scratchpad mode (20 R205). -/
structure State.ScratchAccess (s : State) (va : Word) (w : Bool) : Prop where
  kernel : s.userMode = false
  segment : va.extractLsb' 30 2 = 0b10#2
  noDebug : s.debugOn = false
  noOca : s.env.pins.oca = none
  notIsolated : Ccc.isc s.testMode = false
  covers : s.dScratch va (va &&& 0x1FFFFFFF) = some w
  built : s.dSizeBuilt = true

/-- A data access while the caches are isolated (20 R200): kernel mode, no breakpoint facility, no OCAbus. -/
structure State.Isolated (s : State) : Prop where
  kernel : s.userMode = false
  noDebug : s.debugOn = false
  noOca : s.env.pins.oca = none
  isolated : Ccc.isc s.testMode = true

/-- The four cache sets: `isD` for the D-cache, `w` for set 1. -/
def State.ramSet (s : State) (isD w : Bool) : CacheSet := if isD then s.dcache.way w else s.icache.way w

/-- The enable bit of a set (10 R62); a set of a cache that is not built is not enabled. -/
def State.ramOn (s : State) (isD w : Bool) : Bool :=
  if isD then s.cfg.dcachePresent && (!w || s.cfg.dcacheTwoWay) && s.cp0.ccc.getLsbD (if w then 12 else 13)
  else s.cfg.icachePresent && (!w || s.cfg.icacheTwoWay) && s.cp0.ccc.getLsbD (if w then 16 else 17)

/-- The tag wired to a set whose tag RAM is removed (20 R205, log entry 37); I-cache set 0 always has its tag RAM. -/
def State.ramWired (s : State) (isD w : Bool) : Option (BitVec 22) :=
  if isD then (if w then s.cfg.dTag1 else s.cfg.dTag0) else if w then s.cfg.iTag1 else none

/-- The size code of a set. -/
def State.ramSize (s : State) (isD : Bool) : Nat := if isD then s.dsize else s.isize

/-- The bus answers reads of this step, without error (20 R124, R179). -/
structure State.BusReads (s : State) : Prop where
  answers : s.env.pins.hang = false
  good : s.env.pins.errRead = false

/-- The instruction fetch of this step reads uncached memory in kseg1 and sees no breakpoint (20 R162). -/
structure State.PlainFetch (s : State) : Prop where
  kernel : s.userMode = false
  segment : inKseg1 s.pc = true
  aligned : aligned 4 s.pc = true
  noDebug : s.debugOn = false
  noScratch : s.iScratch s.pc (s.pc &&& 0x1FFFFFFF) = false
  answers : s.env.pins.hang = false
  good : s.env.pins.errFetch = false
  noPort : s.touchesIceport (s.pc &&& 0x1FFFFFF8) 8 = false

/-- No reset, no NMI, no wait state, a defined mode (60 R511, lines 1 to 4). -/
structure State.Runs (s : State) : Prop where
  noCold : s.env.pins.cold = false
  noColdEdge : s.coldLevel = false
  noWarm : s.env.pins.warm = false
  noWarmEdge : s.warmLevel = false
  noNmi : s.nmiPending = false
  awake : s.staysWaiting = false
  defined : s.reservedMode = false

end Sys2Proof.Machine
end

