-- ==== Sys2Proof/Certificates/Slice0/Obligations.lean ====
section
/-! DEFINITION. The statements for the provers, one `Obligations.<Name>` each. A statement with basis "derived" rests
on the sections its entry of OBLIGATIONS.json cites; where it speaks of a choice of the model its docstring names the
log entry. -/

section Statements

-- Many small declarations: elaborating them one after another keeps the memory of the check low.
set_option Elab.async false

open Sys2Proof Sys2Proof.Machine

/-! ### Encoding and decoding (30) -/

/-- Every instruction, laid out in memory in either byte order and decoded, is itself again with no byte left over,
whatever its operands; the table's numbering of the bits gives the same (30 R220, R221, R253). -/
def Obligations.BytesDecodeToTheirInstruction : Prop :=
  ∀ (bigEndian : Bool) (i : Instr) (rest : List Byte),
    decodeBytes bigEndian (bytesOfWord bigEndian (encode i) ++ rest) = .ok (i, rest) ∧
      decodeTableWord 32 (encode i).toNat = some i

/-- A word that decodes to an instruction has the fixed bits of that instruction's row of the opcode table, and a word
with the fixed bits of a row decodes to an instruction of that row (30 R253). That the ignored bits decide nothing is no
statement of the manual: it is the spec's own decision (92 D32, for CP0 functions D26; 30 R249) and the model's choice,
log entry 50. -/
def Obligations.DecodeAgreesWithTheTable : Prop :=
  (∀ (w : Word) (i : Instr), decode w = .instr i → w &&& i.rowMask = i.rowMatch) ∧
  (∀ (i : Instr) (w : Word), w &&& i.rowMask = i.rowMatch →
     ∃ j, decode w = .instr j ∧ j.rowMask = i.rowMask ∧ j.rowMatch = i.rowMatch)

/-- Words written out from the encodings of 30 and 95 section 3, one of each family, decode to their instruction. -/
def Obligations.SampleWordsDecode : Prop :=
  decode 0x8C82FFFC = .instr (.lw 4 2 0xFFFC) ∧ decode 0xA482FFFC = .instr (.sh 4 2 0xFFFC) ∧
    decode 0x00221821 = .instr (.addu 1 2 3) ∧ decode 0x00021FC3 = .instr (.sra 2 3 31) ∧
    decode 0x00220018 = .instr (.mult 1 2) ∧ decode 0x0022001D = .instr (.maddu 1 2) ∧
    decode 0x1022FFFE = .instr (.beq 1 2 0xFFFE) ∧ decode 0x00200008 = .instr (.jr 1) ∧
    decode 0x0000000C = .instr (.syscall 0) ∧ decode 0x44821800 = .instr (.mtc1 2 3 0) ∧
    decode 0x40026000 = .instr (.mfc0 2 12) ∧ decode 0x42000020 = .instr .waiti ∧
    decode 0xBC010000 = .instr .flushi

/-- What a word outside the opcode table does: a reserved word raises RI (30 R246). A reserved COPz word, COP0's too,
raises CpU if the coprocessor is not usable, else RI: that it raises RI is the model's choice between two texts, log
entry 54 (30 R233 and R246, 45 R453 and 46 R460 say RI, 93 I34 never RI). Of the silent words (30 R248, 46 R460, 47
R485) the manual says only that they raise no RI: that those of CP0 and CACHE have no effect is log entry 54 (92 D19),
that CFC0 writes any value log entry 12, that CACHE 00101 to 00111 act as WB or as nothing log entry 36 (93 I35), all
the model's choices. -/
def Obligations.WordsOutsideTheTable : Prop :=
  ∀ (w : Word) (s : State),
    (decode w = .reserved → execWord w s = s.raised .ri) ∧
    (∀ z, decode w = .copReserved z → execWord w s = if s.copUsable z then s.raised .ri else s.raised (.cpu z)) ∧
    (decode w = .cp0Silent ∨ decode w = .ctc0 →
      if s.copUsable 0 then ∃ t, execWord w s = .next t ∧ s.OnlyAdvances t else execWord w s = s.raised (.cpu 0)) ∧
    (∀ rt, decode w = .cfc0 rt →
      if s.copUsable 0 then ∃ v t, execWord w s = .next t ∧ s.WritesGpr t rt v else execWord w s = s.raised (.cpu 0)) ∧
    (decode w = .cacheSilent →
      if s.copUsable 0 then ∃ t, execWord w s = .next t ∧ s.OnlyAdvances t else execWord w s = s.raised .ri) ∧
    (∀ base offset, decode w = .cacheAlias base offset →
      if s.copUsable 0 then
        (∃ t, execWord w s = .next t ∧ s.OnlyAdvances t) ∨
          execWord w s = Res.settle ((s.writeBackIndex (s.ea base offset)).andThen fun _ t => .ok t.advance t)
      else execWord w s = s.raised .ri)

/-! ### The step (60 R511) -/

/-- What the boundary before an instruction may change: the inputs, Count and Random, the latches, memory and caches
through other bus agents and pending cache operations, the UART and the trace state. No general register, HI, LO, pc,
delay-slot flag, TLB entry or other CP0 register. -/
def Obligations.BoundaryFrame : Prop :=
  ∀ s t : State, t = s.sample.beginStep →
    t = { s with
      cp0 := { s.cp0 with count := t.cp0.count, random := t.cp0.random }
      env := t.env, script := t.script, out := t.out, mem := t.mem, wbuf := t.wbuf, icache := t.icache
      dcache := t.dcache, uart := t.uart, nmiPending := t.nmiPending, nmiLevel := t.nmiLevel
      busErrPending := t.busErrPending, timerPending := t.timerPending, trace := t.trace, cacheDue := t.cacheDue
      waitSlip := t.waitSlip }

/-- A step runs the decoded instruction. When no reset, NMI or wait is in the way, the fetch reads plain uncached
memory and the four bytes at the pc decode to `i`, the step is what `exec i` does on the state after the boundary: its
next state, unless an interrupt, a vectored interrupt or a Debug event is due, with the hazards aged and the chosen
stores drained (60 R511, 20 R162). A fault or refusal of `exec i` is the outcome of the step whatever event is due: R511
does not say so, it is the model's choice (log entry 57). -/
def Obligations.StepRunsDecodedInstruction : Prop :=
  ∀ (s b : State) (i : Instr), b = s.sample.beginStep → s.sample.Runs → b.PlainFetch → b.busErrPending = false →
    decodeBytes b.cfg.bigEndian (Memory.readBytes b.mem (b.pc &&& 0x1FFFFFFF) 4) = .ok (i, []) →
      step s = b.resolve (exec i b) ∧
      (∀ t, exec i b = .next t → (t.out.event.isSome = true ∨
          b.intDue = false ∧ b.eviDue = false ∧ (t.out.debugDue && b.debugTaken) = false) →
        ∃ u, step s = .next u ∧ u.gpr = t.gpr ∧ u.hi = t.hi ∧ u.lo = t.lo ∧ u.pc = t.pc ∧ u.npc = t.npc ∧
          u.inSlot = t.inSlot ∧ u.taken = t.taken ∧ u.llbit = t.llbit ∧ u.cp0 = t.cp0 ∧ u.tlb = t.tlb ∧
          u.icache = t.icache ∧ u.dcache = t.dcache ∧ u.mem = (t.drain t.env.choice.drain).mem) ∧
      (∀ f, exec i b = .fault f → step s = .fault f) ∧ (∀ r, exec i b = .refused r → step s = .refused r)

/-- The order in which a step considers events (60 R510, R511): a reset, NMI, the wait state; the fetch, whatever its
path, whose failure is an exception; a latched bus error; the instruction; then its own exception before Int, Int before
EVI, EVI before Debug; only then its effect. Two clauses are the model's: Debug is entered through `leakNext`, so that an
ERET or TLB write behind it may act (log entry 19), and a step of the wait state sets `waitSlip` to 0 (log entry 21). -/
def Obligations.StepTakesEventsInOrder : Prop :=
  ((∀ s p : State, p = s.sample → p.env.pins.cold = false → p.coldLevel = true →
     step s = .next { p.takeCold with coldLevel := false, warmLevel := p.env.pins.warm }.finish) ∧
   (∀ s p : State, p = s.sample → p.env.pins.cold = false → p.coldLevel = false → p.env.pins.warm = false →
     (p.warmLevel = true → step s = .next { p.takeWarm with warmLevel := false }.finish) ∧
     (p.warmLevel = false → p.nmiPending = true → step s = .next (p.takeNmi).finish) ∧
     (p.warmLevel = false → p.nmiPending = false → p.staysWaiting = true →
       step s = .next { p with waitSlip := 0 }.finish)) ∧
   (∀ b t : State,
     (t.out.event.isSome = true → b.resolve (.next t) = .next t.finish) ∧
     (t.out.event.isSome = false →
       (b.intDue = true → b.resolve (.next t) = .next (b.takeException .int).finish) ∧
       (b.intDue = false → b.eviDue = true → b.resolve (.next t) = .next (b.takeEvi).finish) ∧
       (b.intDue = false → b.eviDue = false → t.out.debugDue = true → b.debugTaken = true →
         b.resolve (.next t) = .next (((b.setDcs (t.out.dataBits &&& 0x3F)).leakNext).takeDebug).finish) ∧
       (b.intDue = false → b.eviDue = false → t.out.debugDue = false ∨ b.debugTaken = false →
         b.resolve (.next t) = .next (t.ageHazards).finish)))) ∧
  (∀ s b : State, b = s.sample.beginStep → s.sample.Runs →
     (∀ w t, b.fetch b.pc = .ok w t → t.busErrPending = false → step s = t.resolve (execWord w t)) ∧
     (∀ w t, b.fetch b.pc = .ok w t → t.busErrPending = true → step s = .next (t.takeException .bus).finish) ∧
     (∀ e t, b.fetch b.pc = .raise e t → step s = t.resolve (t.raised e)) ∧
     (∀ f, b.fetch b.pc = .fault f → step s = .fault f) ∧ (∀ r, b.fetch b.pc = .refuse r → step s = .refused r))

/-! ### Invariants and reset -/

/-- Every step keeps the invariant: memory, caches and the write buffer stay in their form, r0 stays zero, the reserved
bits of every CP0 register stay zero (10 R21, R32, R81, R88). No step changes the build and strap parameters (00 R9). -/
def Obligations.StepKeepsInvariant : Prop :=
  ∀ s t : State, s.Inv → step s = .next t → t.Inv ∧ t.cfg = s.cfg

/-- The state after reset has the invariant. -/
def Obligations.ResetHasInvariant : Prop := State.reset.Inv

/-- What cold reset leaves, as far as the spec gives it (10 R100): the pc, the Status bits, Random, Wired, CCC, DCS, the
latches, the write buffer, the ICEport flags; hence Kernel mode with interrupts disabled, R4000 mode. LLbit 0 is the
spec's own decision 92 D8; the cleared latches and wait state and the empty write buffer are its decision 92 D14. -/
def Obligations.ResetState : Prop :=
  let s := State.reset
  s.pc = 0xBFC00000 ∧ s.npc = 0xBFC00004 ∧ s.inSlot = false ∧ s.reg 0 = 0 ∧ s.cp0.status &&& 0xF0700004 = 0x00400004 ∧
    s.cp0.random = s.cfg.tlbLast.zeroExtend 32 ∧ s.cp0.wired = 0 ∧ s.cp0.ccc = 0 ∧ s.cp0.dcs = 0 ∧ s.llbit = false ∧
    s.wbuf = [] ∧ s.nmiPending = false ∧ s.busErrPending = false ∧ s.timerPending = false ∧ s.waiting = false ∧
    s.uart.rxReady = false ∧ s.uart.rxOverrun = false ∧ s.uart.rxIntEnable = false ∧ s.uart.txReady = true ∧
    s.kernelMode = true ∧ s.intEnabled = false ∧ s.r3000 = false ∧ s.bev = true

/-! ### Taking and leaving exceptions (60) -/

/-- The common entry (60 R540): Cause, EPC, Status, the delay-slot state, and what entry leaves alone. A true trap in a
delay slot is left out (44 R427), and HI and LO where the model's choice lets a younger instruction change them
(R503, log entry 14). That every entry ends the wait state is the model's choice (log entry 21; R590 says it of the wake
events); that Cause is written also while EXL is 1 is the spec's own decision 92 D13 (90 C22). -/
def Obligations.ExceptionEntry : Prop :=
  ∀ (s t : State) (e : Exc), t = s.takeException e → (e = .tr → s.inSlot = false) →
    t.cp0.cause.getLsbD 31 = s.inSlot ∧ (s.inSlot = true → t.cp0.cause.getLsbD 30 = s.taken) ∧
    t.cp0.cause.extractLsb' 2 5 = e.code ∧ (∀ z, e = .cpu z → t.cp0.cause.extractLsb' 28 2 = z) ∧
    t.cp0.cause.extractLsb' 8 2 = s.cp0.cause.extractLsb' 8 2 ∧ t.cp0.cause &&& 0x0FFF0083 = 0 ∧
    (s.r3000 = true ∨ s.exl = false → t.cp0.epc = (if s.inSlot then s.pc - 4 else s.pc) &&& 0xFFFFFFFC) ∧
    (s.r3000 = false → s.exl = true → t.cp0.epc = s.cp0.epc) ∧
    (s.r3000 = false →
      t.cp0.status = s.cp0.status.extractLsb' 2 30 ++ (1 : BitVec 1) ++ s.cp0.status.extractLsb' 0 1) ∧
    (s.r3000 = true →
      t.cp0.status = s.cp0.status.extractLsb' 6 26 ++ s.cp0.status.extractLsb' 0 4 ++ (0 : BitVec 2)) ∧
    t.npc = t.pc + 4 ∧ t.inSlot = false ∧ t.taken = false ∧ t.kernelMode = true ∧ t.intEnabled = false ∧
    t.gpr = s.gpr ∧ (s.env.choice.leakHiLo = none → t.hi = s.hi ∧ t.lo = s.lo) ∧ t.llbit = s.llbit ∧ t.tlb = s.tlb ∧
    t.icache = s.icache ∧ t.dcache = s.dcache ∧ t.mem = s.mem ∧ t.wbuf = s.wbuf ∧ t.waiting = false

/-- Where each exception goes (60 R546), by the state before entry: the table of bases and offsets; and the ExcCode
values (10 R54). -/
def Obligations.ExceptionVectorsAndCodes : Prop :=
  (∀ (s : State) (e : Exc),
     ((∀ store va, e ≠ .tlbRefill store va) → (s.takeException e).pc =
       match s.bev, s.r3000 with
       | false, false => 0x80000180
       | false, true => 0x80000080
       | true, false => 0xBFC00380
       | true, true => 0xBFC00180) ∧
     (∀ store va, e = .tlbRefill store va → (s.takeException e).pc =
       match s.bev, s.r3000 with
       | false, false => if s.exl then 0x80000180 else 0x80000000
       | false, true => if va.getLsbD 31 then 0x80000080 else 0x80000000
       | true, false => if s.exl then 0xBFC00380 else 0xBFC00200
       | true, true => if va.getLsbD 31 then 0xBFC00180 else 0xBFC00100)) ∧
  Exc.code .int = 0 ∧ (∀ va, Exc.code (.mod va) = 1) ∧ (∀ va, Exc.code (.tlbRefill false va) = 2) ∧
    (∀ va, Exc.code (.tlbInvalid false va) = 2) ∧ (∀ va, Exc.code (.tlbRefill true va) = 3) ∧
    (∀ va, Exc.code (.tlbInvalid true va) = 3) ∧ (∀ va, Exc.code (.adel va) = 4) ∧ (∀ va, Exc.code (.ades va) = 5) ∧
    Exc.code .bus = 6 ∧ Exc.code .sys = 8 ∧ Exc.code .bp = 9 ∧ Exc.code .ri = 10 ∧ (∀ z, Exc.code (.cpu z) = 11) ∧
    Exc.code .ov = 12 ∧ Exc.code .tr = 13 ∧ Exc.code .fpe = 15

/-- What a TLB exception records (60 R521 to R523): the failing address in BadVAddr, Context and EntryHi, with ASID and
PTEBase kept; an address error records BadVAddr and keeps ASID and PTEBase (R520); the other exceptions change none of
these registers. That the entry's write of EntryHi purges the instruction TLB is the model's choice: 10 R81 names the
write, not its source (log entry 13). -/
def Obligations.ExceptionRecords : Prop :=
  (∀ (s t : State) (e : Exc) (va : Word), (e = .mod va ∨ ∃ st, e = .tlbRefill st va ∨ e = .tlbInvalid st va) →
    t = s.takeException e →
      t.cp0.badVAddr = va ∧ t.cp0.context.extractLsb' 2 20 = va.extractLsb' 12 20 ∧
      t.cp0.context.extractLsb' 22 10 = s.cp0.context.extractLsb' 22 10 ∧
      t.cp0.entryHi.extractLsb' 12 20 = va.extractLsb' 12 20 ∧
      t.cp0.entryHi.extractLsb' 0 8 = s.cp0.entryHi.extractLsb' 0 8 ∧ t.itlb = []) ∧
  (∀ (s t : State) (e : Exc) (va : Word), (e = .adel va ∨ e = .ades va) → t = s.takeException e →
    t.cp0.badVAddr = va ∧ t.cp0.context.extractLsb' 22 10 = s.cp0.context.extractLsb' 22 10 ∧
      t.cp0.entryHi.extractLsb' 0 8 = s.cp0.entryHi.extractLsb' 0 8) ∧
  (∀ (s t : State) (e : Exc), e = .int ∨ e = .bus ∨ e = .sys ∨ e = .bp ∨ e = .ri ∨ (∃ z, e = .cpu z) ∨ e = .ov ∨
      e = .tr ∨ e = .fpe → t = s.takeException e →
    t.cp0.badVAddr = s.cp0.badVAddr ∧ t.cp0.context = s.cp0.context ∧ t.cp0.entryHi = s.cp0.entryHi ∧
      t.cp0.entryLo = s.cp0.entryLo ∧ t.itlb = s.itlb)

/-- The Debug entry (60 R541): Cause keeps all but BD and BT; vector offset 0x040 in both modes. The External Vectored
Interrupt entry (60 R542): the pc is taken from the pins, Cause keeps all but BD, EXVAEn is shown. EPC and Status in
both as the common entry; for the vectored interrupt the figure is lost and that is the spec's reconstruction (92 D16,
log entry 43). Debug detection (60 R560 to R562): where the facility is on, which addresses match, what an event sets;
an event is taken when DCS.TR is 1 and EXL does not mask it (R564), a load or store then before its access. -/
def Obligations.DebugAndEviEntry : Prop :=
  (∀ s t : State, t = s.takeDebug →
     t.cp0.cause.getLsbD 31 = s.inSlot ∧ (s.inSlot = true → t.cp0.cause.getLsbD 30 = s.taken) ∧
     t.cp0.cause.extractLsb' 0 30 = s.cp0.cause.extractLsb' 0 30 ∧ t.cp0.dcs = s.cp0.dcs ∧
     (s.r3000 = true ∨ s.exl = false → t.cp0.epc = (if s.inSlot then s.pc - 4 else s.pc) &&& 0xFFFFFFFC) ∧
     (s.r3000 = false → s.exl = true → t.cp0.epc = s.cp0.epc) ∧
     (s.r3000 = false →
       t.cp0.status = s.cp0.status.extractLsb' 2 30 ++ (1 : BitVec 1) ++ s.cp0.status.extractLsb' 0 1) ∧
     (s.r3000 = true →
       t.cp0.status = s.cp0.status.extractLsb' 6 26 ++ s.cp0.status.extractLsb' 0 4 ++ (0 : BitVec 2)) ∧
     t.pc = (match s.bev, s.r3000 with
       | false, _ => 0x80000040
       | true, false => 0xBFC00240
       | true, true => 0xBFC00140) ∧
     t.npc = t.pc + 4 ∧ t.inSlot = false ∧ t.gpr = s.gpr ∧ t.mem = s.mem ∧ t.tlb = s.tlb ∧ t.llbit = s.llbit) ∧
  (∀ s t : State, t = s.takeEvi →
     t.cp0.cause = BitVec.ofBool s.inSlot ++ s.cp0.cause.extractLsb' 0 31 ∧
     (s.r3000 = true ∨ s.exl = false → t.cp0.epc = (if s.inSlot then s.pc - 4 else s.pc) &&& 0xFFFFFFFC) ∧
     (s.r3000 = false → s.exl = true → t.cp0.epc = s.cp0.epc) ∧
     (s.r3000 = false →
       t.cp0.status = s.cp0.status.extractLsb' 2 30 ++ (1 : BitVec 1) ++ s.cp0.status.extractLsb' 0 1) ∧
     (s.r3000 = true →
       t.cp0.status = s.cp0.status.extractLsb' 6 26 ++ s.cp0.status.extractLsb' 0 4 ++ (0 : BitVec 2)) ∧
     t.pc = s.env.pins.eviAddr ++ (0 : BitVec 2) ∧ t.npc = t.pc + 4 ∧ t.inSlot = false ∧ t.out.eviAck = true ∧
     t.gpr = s.gpr ∧ t.mem = s.mem ∧ t.tlb = s.tlb ∧ t.llbit = s.llbit) ∧
  (∀ s : State,
     (s.debugOn = true ↔ s.cp0.dcs.getLsbD 23 = true ∧
       (s.userMode = true ∧ s.cp0.dcs.getLsbD 30 = true ∨ s.kernelMode = true ∧ s.cp0.dcs.getLsbD 29 = true)) ∧
     (s.debugTaken = true ↔ s.cp0.dcs.getLsbD 31 = true ∧ (s.r3000 = true ∨ s.exl = false))) ∧
  (∀ (s : State) (va : Word) (hit : Prop), (hit ↔ s.debugOn = true ∧ s.cp0.dcs.getLsbD 24 = true ∧
       ∀ k, 2 ≤ k → k < 32 → s.cp0.bpcm.getLsbD k = true → va.getLsbD k = s.cp0.bpc.getLsbD k) →
     (hit → s.debugPcCheck va = { s with
       cp0 := { s.cp0 with dcs := s.cp0.dcs ||| 0x3 }, out := { s.out with debugDue := true } }) ∧
     (¬hit → s.debugPcCheck va = s)) ∧
  (∀ (s : State) (va : Word) (store : Bool) (hit : Prop) (bits : Word),
     (hit ↔ s.debugOn = true ∧ s.cp0.dcs.getLsbD 25 = true ∧ s.cp0.dcs.getLsbD (if store then 27 else 26) = true ∧
       ∀ k < 32, s.cp0.bdam.getLsbD k = true → va.getLsbD k = s.cp0.bda.getLsbD k) →
     bits = (if store then 0x15 else 0xD) →
     (hit → s.debugDataCheck va store = { s with
       cp0 := { s.cp0 with dcs := s.cp0.dcs ||| bits }, out := { s.out with debugDue := true, dataBits := bits } }) ∧
     (¬hit → s.debugDataCheck va store = s)) ∧
  (∀ (s : State) (base rt : BitVec 5) (off : BitVec 16) (va : Word), va = s.reg base + off.signExtend 32 →
     va.toNat % 4 = 0 → va.extractLsb' 30 2 = 0b10#2 → s.userMode = false → s.debugTaken = true →
     (s.dataEvent va false = true → exec (.lw base rt off) s = .next (s.debugDataCheck va false)) ∧
     (s.dataEvent va true = true → exec (.sw base rt off) s = .next (s.debugDataCheck va true)))

/-- NMI and warm reset (60 R543, R544): ErrorEPC, Status and the pc; EPC, Cause, CCC and every other CP0 register are
kept; an NMI also keeps the registers, the TLB, the caches and memory. The write buffer across an NMI may lose any of
its stores and keeps the order of the others: R543 keeps the memory system, 93 I3 calls the buffer any value; that the
others stay in the buffer is the model's choice (log entry 49). -/
def Obligations.NmiAndWarmResetEntry : Prop :=
  ∀ s : State,
    (∀ t, t = s.takeNmi ∨ t = s.takeWarm →
      t.cp0 = { s.cp0 with
        errorEpc := (if s.inSlot then s.pc - 4 else s.pc) &&& 0xFFFFFFFC
        status := if s.r3000
          then s.cp0.status.extractLsb' 23 9 ++ (0b101 : BitVec 3) ++ s.cp0.status.extractLsb' 6 14 ++
            s.cp0.status.extractLsb' 0 4 ++ (0 : BitVec 2)
          else s.cp0.status.extractLsb' 23 9 ++ (0b101 : BitVec 3) ++ s.cp0.status.extractLsb' 3 17 ++
            (1 : BitVec 1) ++ s.cp0.status.extractLsb' 0 2 } ∧
      t.pc = 0xBFC00000 ∧ t.npc = 0xBFC00004 ∧ t.inSlot = false ∧ t.waiting = false ∧ t.gpr = s.gpr ∧
      t.tlb = s.tlb) ∧
    (s.takeNmi).nmiPending = false ∧ (s.takeNmi).icache = s.icache ∧ (s.takeNmi).dcache = s.dcache ∧
    (s.takeNmi).wbuf.Sublist s.wbuf ∧ (s.env.choice.lost = [] → (s.takeNmi).wbuf = s.wbuf) ∧
    (s.takeNmi).mem = s.mem

/-- Cold reset (60 R545, 10 R100): the registers it sets, whatever the state before; memory stays. What it leaves
unspecified is left out. The cleared latches and wait state and the empty write buffer are the spec's own decision
92 D14. -/
def Obligations.ColdResetEntry : Prop :=
  ∀ s t : State, t = s.takeCold →
    t.cp0.random = s.cfg.tlbLast.zeroExtend 32 ∧ t.cp0.wired = 0 ∧ t.cp0.ccc = 0 ∧ t.cp0.dcs = 0 ∧
    t.cp0.errorEpc = (if s.inSlot then s.pc - 4 else s.pc) &&& 0xFFFFFFFC ∧
    t.cp0.status &&& 0xF0700004 = 0x00400004 ∧ t.pc = 0xBFC00000 ∧ t.npc = 0xBFC00004 ∧ t.inSlot = false ∧
    t.reg 0 = 0 ∧ t.nmiPending = false ∧ t.busErrPending = false ∧ t.timerPending = false ∧ t.waiting = false ∧
    t.wbuf = [] ∧ t.uart.rxReady = false ∧ t.uart.rxOverrun = false ∧ t.uart.rxIntEnable = false ∧
    t.uart.txReady = true ∧ t.mem = s.mem ∧ t.kernelMode = true ∧ t.intEnabled = false ∧ t.r3000 = false

/-- ERET (46 R468): the target and the cleared bit by Status.ERL; LLbit is cleared; RI in R3000 mode. The model's
choice inside the hazard distance of EPC is shut out by `recent = []` (70 R631). The model's choices too: ERET
in a delay slot stops (log entry 24; 92 D7); ERET ends a wait (log entry 21), sets the trace state to idle (log entry 42)
and keeps the bus lock (log entry 46). -/
def Obligations.EretReturns : Prop :=
  ∀ s : State, s.copUsable 0 = true →
    (s.r3000 = true → exec .eret s = s.raised .ri) ∧
    (s.r3000 = false → s.inSlot = true → exec .eret s = .refused .eretInDelaySlot) ∧
    (s.r3000 = false → s.inSlot = false → s.recent = [] → ∃ t, exec .eret s = .next t ∧
      t.pc = (if s.erl then s.cp0.errorEpc else s.cp0.epc) ∧ t.npc = t.pc + 4 ∧ t.inSlot = false ∧ t.llbit = false ∧
      (s.erl = true → t.erl = false ∧ ∀ k, k ≠ 2 → t.cp0.status.getLsbD k = s.cp0.status.getLsbD k) ∧
      (s.erl = false → t.exl = false ∧ ∀ k, k ≠ 1 → t.cp0.status.getLsbD k = s.cp0.status.getLsbD k) ∧
      t = { s with pc := t.pc, npc := t.npc, inSlot := false, taken := false, slotOfJr := false, llbit := false,
                   cp0 := { s.cp0 with status := t.cp0.status }, waiting := false, waitSlip := 0, tlbRecent := none,
                   trace := .idle })

/-- RFE (46 R467): the Status stack is popped, the oldest pair stays, LLbit is cleared, the pc moves on; RI in R4000
mode. That it stops in a delay slot is the model's choice (log entry 24), that it does not in JR's or JALR's taken from
the family (log entry 47), that it keeps the bus lock the model's choice (log entry 46). -/
def Obligations.RfeReturns : Prop :=
  ∀ s : State, s.copUsable 0 = true →
    (s.r3000 = false → exec .rfe s = s.raised .ri) ∧
    (s.r3000 = true → s.inSlot = true → s.slotOfJr = false → exec .rfe s = .refused .rfeInDelaySlot) ∧
    (s.r3000 = true → (s.inSlot = true → s.slotOfJr = true) → ∃ t, exec .rfe s = .next t ∧
      t.cp0.status = s.cp0.status.extractLsb' 4 28 ++ s.cp0.status.extractLsb' 2 4 ∧ t.llbit = false ∧
      t.pc = s.npc ∧ t.npc = s.npc + 4 ∧ t.inSlot = false ∧
      t = { s with pc := t.pc, npc := t.npc, inSlot := false, taken := false, slotOfJr := false, llbit := false,
                   cp0 := { s.cp0 with status := t.cp0.status }, tlbRecent := none })

/-- A handler that returns at once restores what entry saved (60 R547): in R4000 mode with EXL = ERL = 0, ERET after an
exception goes back to the restart address with Status as it was; in R3000 mode RFE restores the two current mode
bits and the previous ones. -/
def Obligations.ExceptionThenReturnRestores : Prop :=
  ∀ (s : State) (e : Exc), (e = .tr → s.inSlot = false) → s.recent = [] →
    (s.r3000 = false → s.exl = false → s.erl = false → ∃ t, exec .eret (s.takeException e) = .next t ∧
      t.cp0.status = s.cp0.status ∧ t.pc = (if s.inSlot then s.pc - 4 else s.pc) &&& 0xFFFFFFFC ∧ t.gpr = s.gpr ∧
      t.mem = s.mem) ∧
    (s.r3000 = true → ∃ t, exec .rfe (s.takeException e) = .next t ∧
      t.cp0.status.extractLsb' 0 4 = s.cp0.status.extractLsb' 0 4 ∧ t.gpr = s.gpr ∧ t.mem = s.mem)

/-- When an interrupt is due (60 R550, R551, R554): interrupts enabled and some pending bit whose mask bit is set, or
the vectored input while CCC.EVI is 1; where each pending bit comes from. -/
def Obligations.InterruptConditions : Prop :=
  ∀ s : State, s.cp0.Inv →
    (s.intDue = true ↔ s.intEnabled = true ∧
      ∃ k < 8, s.causeRead.getLsbD (8 + k) = true ∧ s.cp0.status.getLsbD (8 + k) = true) ∧
    (s.eviDue = true ↔ s.intEnabled = true ∧ s.cp0.ccc.getLsbD 25 = true ∧ s.env.pins.evi = true) ∧
    (s.intEnabled = true ↔ if s.cp0.ccc.getLsbD 24 then s.cp0.status.getLsbD 0 = true else
      s.cp0.status.getLsbD 0 = true ∧ s.cp0.status.getLsbD 1 = false ∧ s.cp0.status.getLsbD 2 = false) ∧
    (∀ k < 2, s.causeRead.getLsbD (8 + k) = s.cp0.cause.getLsbD (8 + k)) ∧
    (∀ k < 5, s.causeRead.getLsbD (10 + k) = s.exIntPins.getLsbD k) ∧
    s.causeRead.getLsbD 15 = (if s.cp0.ccc.getLsbD 19 then s.timerPending else s.exIntPins.getLsbD 5)

/-- The timer (60 R553, 10 R42): Count advances by the clocks of the step, and a clock at which Count equals Compare is
latched while CCC.TMR is 1. Which clocks of a step match, and that a match while CCC.TMR is 0 is not remembered (93 I39),
is the model's reading (log entry 9). Where the environment gives no number of clocks it is any, and nothing is said. -/
def Obligations.TimerMatch : Prop :=
  ∀ (s : State) (n : Nat), s.env.clocks = some n →
    (s.runTimer).cp0.count = s.cp0.count + BitVec.ofNat 32 n ∧
    ((s.runTimer).timerPending = true ↔ s.timerPending = true ∨
      s.cp0.ccc.getLsbD 19 = true ∧ ∃ k, 1 ≤ k ∧ k ≤ n ∧ s.cp0.count + BitVec.ofNat 32 k = s.cp0.compare)

/-- WAITI (46 R469, 60 R590): it completes and the machine waits; followed by two NOPs, it executes nothing more until
an interrupt, vectored interrupt, NMI or reset is due. That up to two instructions may still execute without the NOPs is
log entry 21 (90 C6), that a pending bus error does not end the wait log entry 51 (92 D36): the model's readings. -/
def Obligations.WaitState : Prop :=
  (∀ s : State, s.copUsable 0 = true → ∃ t, exec .waiti s = .next t ∧ t.waiting = true ∧
    t.waitSlip = (if s.nopsAfter then 0 else 2) ∧
    t = { s with pc := s.npc, npc := s.npc + 4, inSlot := false, taken := false, slotOfJr := false, tlbRecent := none,
                 waiting := true, waitSlip := t.waitSlip }) ∧
  (∀ s p : State, p = s.sample → p.waiting = true → p.waitSlip = 0 → p.env.pins.cold = false → p.coldLevel = false →
    p.env.pins.warm = false → p.warmLevel = false → p.nmiPending = false → p.intDue = false → p.eviDue = false →
      ∃ t, step s = .next t ∧ t.waiting = true ∧ t.waitSlip = 0 ∧ t.pc = s.pc ∧ t.npc = s.npc ∧ t.gpr = s.gpr ∧
        t.cp0 = p.cp0)

/-! ### Computation (41, 42) -/

/-- ADDIU, SLTI, SLTIU, ANDI, ORI, XORI, LUI (41 R302 to R308): the result in rt, nothing else. -/
def Obligations.ImmediateResults : Prop :=
  ∀ (s : State) (rs rt : BitVec 5) (imm : BitVec 16),
    s.Yields (.addiu rs rt imm) rt (s.reg rs + imm.signExtend 32) ∧
    s.Yields (.slti rs rt imm) rt (if (s.reg rs).toInt < imm.toInt then 1 else 0) ∧
    s.Yields (.sltiu rs rt imm) rt (if (s.reg rs).toNat < (imm.signExtend 32).toNat then 1 else 0) ∧
    s.Yields (.andi rs rt imm) rt (s.reg rs &&& ((0 : BitVec 16) ++ imm)) ∧
    s.Yields (.ori rs rt imm) rt (s.reg rs ||| ((0 : BitVec 16) ++ imm)) ∧
    s.Yields (.xori rs rt imm) rt (s.reg rs ^^^ ((0 : BitVec 16) ++ imm)) ∧
    s.Yields (.lui rt imm) rt (imm ++ (0 : BitVec 16))

/-- ADDU, SUBU, SLT, SLTU, AND, OR, XOR, NOR (41 R311, R313 to R319): the result in rd, nothing else. -/
def Obligations.RegisterResults : Prop :=
  ∀ (s : State) (rs rt rd : BitVec 5),
    s.Yields (.addu rs rt rd) rd (s.reg rs + s.reg rt) ∧
    s.Yields (.subu rs rt rd) rd (s.reg rs - s.reg rt) ∧
    s.Yields (.slt rs rt rd) rd (if (s.reg rs).toInt < (s.reg rt).toInt then 1 else 0) ∧
    s.Yields (.sltu rs rt rd) rd (if (s.reg rs).toNat < (s.reg rt).toNat then 1 else 0) ∧
    s.Yields (.and rs rt rd) rd (s.reg rs &&& s.reg rt) ∧
    s.Yields (.or rs rt rd) rd (s.reg rs ||| s.reg rt) ∧
    s.Yields (.xor rs rt rd) rd (s.reg rs ^^^ s.reg rt) ∧
    (∃ v, s.Yields (.nor rs rt rd) rd v ∧
      ∀ k < 32, v.getLsbD k = (!(s.reg rs).getLsbD k && !(s.reg rt).getLsbD k))

/-- ADD, ADDI, SUB (41 R300, R301, R310, R312): overflow by the sign bits, as R300 defines it, raises Ov and writes no
register; otherwise the sum or difference in the destination, nothing else. -/
def Obligations.OverflowTraps : Prop :=
  (∀ (s : State) (rs rt rd : BitVec 5) (a b v : Word), a = s.reg rs → b = s.reg rt → v = a + b →
    (a.msb = b.msb ∧ v.msb ≠ a.msb → exec (.add rs rt rd) s = s.raised .ov) ∧
    (¬(a.msb = b.msb ∧ v.msb ≠ a.msb) → s.Yields (.add rs rt rd) rd v)) ∧
  (∀ (s : State) (rs rt : BitVec 5) (imm : BitVec 16) (a b v : Word), a = s.reg rs → b = imm.signExtend 32 → v = a + b →
    (a.msb = b.msb ∧ v.msb ≠ a.msb → exec (.addi rs rt imm) s = s.raised .ov) ∧
    (¬(a.msb = b.msb ∧ v.msb ≠ a.msb) → s.Yields (.addi rs rt imm) rt v)) ∧
  (∀ (s : State) (rs rt rd : BitVec 5) (a b v : Word), a = s.reg rs → b = s.reg rt → v = a - b →
    (a.msb ≠ b.msb ∧ v.msb ≠ a.msb → exec (.sub rs rt rd) s = s.raised .ov) ∧
    (¬(a.msb ≠ b.msb ∧ v.msb ≠ a.msb) → s.Yields (.sub rs rt rd) rd v))

/-- The shifts, bit by bit (41 R320 to R325): the count is shamt or the low five bits of rs; the vacated bits are zero,
or copies of the sign for SRA and SRAV. -/
def Obligations.ShiftResults : Prop :=
  ∀ (s : State) (rs rt rd sh : BitVec 5) (n : Nat) (x : Word), n = (s.reg rs).toNat % 32 → x = s.reg rt →
    (∃ v, s.Yields (.sll rt rd sh) rd v ∧
      ∀ k < 32, v.getLsbD k = (decide (sh.toNat ≤ k) && x.getLsbD (k - sh.toNat))) ∧
    (∃ v, s.Yields (.srl rt rd sh) rd v ∧ ∀ k < 32, v.getLsbD k = x.getLsbD (k + sh.toNat)) ∧
    (∃ v, s.Yields (.sra rt rd sh) rd v ∧
      ∀ k < 32, v.getLsbD k = if k + sh.toNat < 32 then x.getLsbD (k + sh.toNat) else x.getLsbD 31) ∧
    (∃ v, s.Yields (.sllv rs rt rd) rd v ∧ ∀ k < 32, v.getLsbD k = (decide (n ≤ k) && x.getLsbD (k - n))) ∧
    (∃ v, s.Yields (.srlv rs rt rd) rd v ∧ ∀ k < 32, v.getLsbD k = x.getLsbD (k + n)) ∧
    (∃ v, s.Yields (.srav rs rt rd) rd v ∧
      ∀ k < 32, v.getLsbD k = if k + n < 32 then x.getLsbD (k + n) else x.getLsbD 31)

/-- FFS and FFC (42 R352, R353): the number of the highest set or clear bit, all ones where there is none. ADDCIU,
SELSR, SELSL, bit by bit, and MIN and MAX (42 R351, R354 to R357): the sum below bit CMask and rs above it; the
doubleword rs, rt shifted by Rotate; the smaller and the larger operand as signed numbers. The results for CMask = 0 and
Rotate = 0 are the spec's own decision 92 D22, the bit numbering of FFS and FFC its decision 92 D23. -/
def Obligations.ExtensionResults : Prop :=
  (∀ (s : State) (rs rd : BitVec 5),
     (∃ v, s.Yields (.ffs rs rd) rd v ∧
       (s.reg rs = 0 → v = 0xFFFFFFFF) ∧
       (s.reg rs ≠ 0 → (s.reg rs).getLsbD v.toNat = true ∧ ∀ k, v.toNat < k → (s.reg rs).getLsbD k = false)) ∧
     (∃ v, s.Yields (.ffc rs rd) rd v ∧
       (s.reg rs = 0xFFFFFFFF → v = 0xFFFFFFFF) ∧
       (s.reg rs ≠ 0xFFFFFFFF → v.toNat < 32 ∧ (s.reg rs).getLsbD v.toNat = false ∧
         ∀ k < 32, v.toNat < k → (s.reg rs).getLsbD k = true))) ∧
  (∀ (s : State) (rs rt rd : BitVec 5) (imm : BitVec 16) (c n : Nat) (a b : Word),
     c = s.cp0.cmask.toNat % 32 → n = s.cp0.rotate.toNat % 32 → a = s.reg rs → b = s.reg rt →
     (∃ v, s.Yields (.addciu rs rt imm) rt v ∧
       ∀ k < 32, v.getLsbD k = if k < c then (a + imm.signExtend 32).getLsbD k else a.getLsbD k) ∧
     (∃ v, s.Yields (.selsr rs rt rd) rd v ∧
       ∀ k < 32, v.getLsbD k = if k + n < 32 then b.getLsbD (k + n) else a.getLsbD (k + n - 32)) ∧
     (∃ v, s.Yields (.selsl rs rt rd) rd v ∧
       ∀ k < 32, v.getLsbD k = if n ≤ k then a.getLsbD (k - n) else b.getLsbD (32 + k - n)) ∧
     (∃ v, s.Yields (.min rs rt rd) rd v ∧ (v = a ∨ v = b) ∧ v.toInt ≤ a.toInt ∧ v.toInt ≤ b.toInt) ∧
     (∃ v, s.Yields (.max rs rt rd) rd v ∧ (v = a ∨ v = b) ∧ a.toInt ≤ v.toInt ∧ b.toInt ≤ v.toInt))

/-- MULT and MULTU (41 R331, R332): HI and LO together hold the exact product; nothing else changes. -/
def Obligations.Products : Prop :=
  ∀ (s : State) (rs rt : BitVec 5), s.mduUsable = true →
    (∃ t, exec (.mult rs rt) s = .next t ∧ s.WritesHiLo t t.hi t.lo ∧
      (t.hi ++ t.lo).toInt = (s.reg rs).toInt * (s.reg rt).toInt) ∧
    (∃ t, exec (.multu rs rt) s = .next t ∧ s.WritesHiLo t t.hi t.lo ∧
      (t.hi ++ t.lo).toNat = (s.reg rs).toNat * (s.reg rt).toNat)

/-- MADD, MADDU, MSUB, MSUBU (42 R358 to R361): the product is added to or subtracted from HI || LO modulo 2^64; no
overflow exception. -/
def Obligations.Accumulates : Prop :=
  ∀ (s : State) (rs rt : BitVec 5), s.macUsable = true →
    (∃ t, exec (.madd rs rt) s = .next t ∧ s.WritesHiLo t t.hi t.lo ∧
      ((t.hi ++ t.lo).toNat : Int) = ((s.hi ++ s.lo).toNat + (s.reg rs).toInt * (s.reg rt).toInt) % 2 ^ 64) ∧
    (∃ t, exec (.maddu rs rt) s = .next t ∧ s.WritesHiLo t t.hi t.lo ∧
      (t.hi ++ t.lo).toNat = ((s.hi ++ s.lo).toNat + (s.reg rs).toNat * (s.reg rt).toNat) % 2 ^ 64) ∧
    (∃ t, exec (.msub rs rt) s = .next t ∧ s.WritesHiLo t t.hi t.lo ∧
      ((t.hi ++ t.lo).toNat : Int) = ((s.hi ++ s.lo).toNat - (s.reg rs).toInt * (s.reg rt).toInt) % 2 ^ 64) ∧
    (∃ t, exec (.msubu rs rt) s = .next t ∧ s.WritesHiLo t t.hi t.lo ∧
      ((t.hi ++ t.lo).toNat : Int) = (((s.hi ++ s.lo).toNat : Int) - (s.reg rs).toNat * (s.reg rt).toNat) % 2 ^ 64)

/-- DIV and DIVU (41 R333, R334): quotient in LO and remainder in HI where the spec defines them, with truncation
toward zero as R333 takes it (log entry 11); elsewhere HI and LO are any value. No exception in any case. -/
def Obligations.Divisions : Prop :=
  ∀ (s : State) (rs rt : BitVec 5) (a b : Word), s.mduUsable = true → a = s.reg rs → b = s.reg rt →
    (∃ t, exec (.div rs rt) s = .next t ∧ s.WritesHiLo t t.hi t.lo ∧
      (b ≠ 0 → ¬(a = 0x80000000 ∧ b = 0xFFFFFFFF) →
        a.toInt = t.lo.toInt * b.toInt + t.hi.toInt ∧ t.hi.toInt.natAbs < b.toInt.natAbs ∧
          (t.hi = 0 ∨ t.hi.msb = a.msb))) ∧
    (∃ t, exec (.divu rs rt) s = .next t ∧ s.WritesHiLo t t.hi t.lo ∧
      (b ≠ 0 → a.toNat = t.lo.toNat * b.toNat + t.hi.toNat ∧ t.hi.toNat < b.toNat))

/-- MFHI, MFLO, MTHI, MTLO (41 R335 to R338). Without a usable unit the multiply, divide and accumulate instructions
raise RI (30 R247, 41 R330, 42 R358): a cleared CCC.MUL or no unit built for the first eight; also a cleared CCC.MAD or
no accumulator for the last four. RI where no unit is built, whatever CCC says, is the spec's own decision 92 D20. -/
def Obligations.HiLoMovesAndAbsentUnits : Prop :=
  (∀ (s : State) (r : BitVec 5), s.mduUsable = true →
     s.Yields (.mfhi r) r s.hi ∧ s.Yields (.mflo r) r s.lo ∧
     (∃ t, exec (.mthi r) s = .next t ∧ s.WritesHiLo t (s.reg r) s.lo) ∧
     (∃ t, exec (.mtlo r) s = .next t ∧ s.WritesHiLo t s.hi (s.reg r))) ∧
  (∀ (s : State) (rs rt r : BitVec 5),
     (s.cfg.mduPresent = false ∨ s.cp0.ccc.getLsbD 21 = false →
       ∀ i ∈ [Instr.mult rs rt, .multu rs rt, .div rs rt, .divu rs rt, .mfhi r, .mflo r, .mthi r, .mtlo r],
         exec i s = s.raised .ri) ∧
     (s.cfg.macPresent = false ∨ s.cp0.ccc.getLsbD 21 = false ∨ s.cp0.ccc.getLsbD 20 = false →
       ∀ i ∈ [Instr.madd rs rt, .maddu rs rt, .msub rs rt, .msubu rs rt], exec i s = s.raised .ri))

/-! ### Jumps, branches and traps (43, 44) -/

/-- J, JAL, JR, JALR outside a delay slot (43 R370, R374 to R378): the slot comes next, then the target; the link is
the address behind the slot. That the region is that of the slot's address and that the target is read before the link
is written is taken from the family (log entry 47; 92 D33, D34). DCS.T and the trace state as 60 R563 (log entry 42), which also
says that a jump, unlike a branch, sets no breakpoint bit before its target is fetched: the model's choice. -/
def Obligations.Jumps : Prop :=
  ∀ (s : State) (region : BitVec 26) (rs rd : BitVec 5), s.inSlot = false →
    (∃ t, exec (.j region) s = .next t ∧ s.TransferFrame t 0 ∧
      s.TakenTo t ((s.pc + 4).extractLsb' 28 4 ++ region ++ (0 : BitVec 2))) ∧
    (∃ t, exec (.jal region) s = .next t ∧ s.TransferFrame t 31 ∧ t.reg 31 = s.pc + 8 ∧
      s.TakenTo t ((s.pc + 4).extractLsb' 28 4 ++ region ++ (0 : BitVec 2))) ∧
    (∃ t, exec (.jr rs) s = .next t ∧ s.TransferFrame t 0 ∧ s.TakenTo t (s.reg rs)) ∧
    (∃ t, exec (.jalr rs rd) s = .next t ∧ s.TransferFrame t rd ∧ s.TakenTo t (s.reg rs) ∧
      (rd ≠ 0 → t.reg rd = s.pc + 8))

/-- The conditional branches outside a delay slot (43 R370, R380 to R387): the condition on the signed values, the
target from the address of the slot, the link of BLTZAL and BGEZAL whether or not they branch (R374); DCS as 60 R561 and
R563, its PC bit by the target whether or not they branch. That these two test r31 before the link is written is taken
from the family (log entry 47; 92 D34). -/
def Obligations.Branches : Prop :=
  ∀ (s : State) (rs rt : BitVec 5) (off : BitVec 16) (target : Word), s.inSlot = false →
    target = s.pc + 4 + (off.signExtend 32 <<< 2) →
    s.BranchesOn (.beq rs rt off) 0 (s.reg rs = s.reg rt) target ∧
    s.BranchesOn (.bne rs rt off) 0 (s.reg rs ≠ s.reg rt) target ∧
    s.BranchesOn (.blez rs off) 0 ((s.reg rs).toInt ≤ 0) target ∧
    s.BranchesOn (.bgtz rs off) 0 (0 < (s.reg rs).toInt) target ∧
    s.BranchesOn (.bltz rs off) 0 ((s.reg rs).toInt < 0) target ∧
    s.BranchesOn (.bgez rs off) 0 (0 ≤ (s.reg rs).toInt) target ∧
    s.BranchesOn (.bltzal rs off) 31 ((s.reg rs).toInt < 0) target ∧
    s.BranchesOn (.bgezal rs off) 31 (0 ≤ (s.reg rs).toInt) target

/-- The Branch Likely instructions outside a delay slot (43 R373, R390 to R397): not taken, the slot is skipped; but a
load or store in it may execute all the same while the caches are isolated, which the manual forbids (70 R636, log entry
22). That the linking ones test r31 before the link is written is taken from the family (log entry 47; 92 D34). -/
def Obligations.LikelyBranches : Prop :=
  ∀ (s : State) (rs rt : BitVec 5) (off : BitVec 16) (target : Word), s.inSlot = false →
    target = s.pc + 4 + (off.signExtend 32 <<< 2) →
    s.BranchesLikelyOn (.beql rs rt off) 0 (s.reg rs = s.reg rt) target ∧
    s.BranchesLikelyOn (.bnel rs rt off) 0 (s.reg rs ≠ s.reg rt) target ∧
    s.BranchesLikelyOn (.blezl rs off) 0 ((s.reg rs).toInt ≤ 0) target ∧
    s.BranchesLikelyOn (.bgtzl rs off) 0 (0 < (s.reg rs).toInt) target ∧
    s.BranchesLikelyOn (.bltzl rs off) 0 ((s.reg rs).toInt < 0) target ∧
    s.BranchesLikelyOn (.bgezl rs off) 0 (0 ≤ (s.reg rs).toInt) target ∧
    s.BranchesLikelyOn (.bltzall rs off) 31 ((s.reg rs).toInt < 0) target ∧
    s.BranchesLikelyOn (.bgezall rs off) 31 (0 ≤ (s.reg rs).toInt) target

/-- The coprocessor branches (45 R441, R449 to R452): CpU where the coprocessor is not usable, else a branch on its
condition line; coprocessors 1 to 3 are shown the word (45 R440). The target is that of 30 R223, DCS and the trace
state are those of 60 R561 and R563. Not taken, a Branch Likely as in 70 R636 (log entry 22). That a branch does not
look at a request of an attached coprocessor for its exception, and so completes where there is one, is the model's
choice, log entry 48 (DESIGN CHOICE: 60 R535 does not name BCz among the instructions that ask). That a branch
completes where no coprocessor is attached is the spec's own decision 92 D35 (45 R455). -/
def Obligations.CoprocessorBranches : Prop :=
  ∀ (s : State) (off : BitVec 16) (target : Word), target = s.pc + 4 + (off.signExtend 32 <<< 2) →
    ∀ p ∈ [((0 : BitVec 2), Instr.bc0f off, Instr.bc0t off, Instr.bc0fl off, Instr.bc0tl off),
        (1, .bc1f off, .bc1t off, .bc1fl off, .bc1tl off), (2, .bc2f off, .bc2t off, .bc2fl off, .bc2tl off),
        (3, .bc3f off, .bc3t off, .bc3fl off, .bc3tl off)],
      (s.copUsable p.1 = false → ∀ i ∈ [p.2.1, p.2.2.1, p.2.2.2.1, p.2.2.2.2], exec i s = s.raised (.cpu p.1)) ∧
      (s.copUsable p.1 = true → s.inSlot = false → ∀ cond : Bool, cond = s.env.pins.cpCond.getLsbD p.1.toNat →
        (s.withShown p.1 p.2.1).BranchOutcome (exec p.2.1 s) 0 (cond = false) target ∧
        (s.withShown p.1 p.2.2.1).BranchOutcome (exec p.2.2.1 s) 0 (cond = true) target ∧
        (s.withShown p.1 p.2.2.2.1).LikelyOutcome (exec p.2.2.2.1 s) s.slotSurvives 0 (cond = false) target ∧
        (s.withShown p.1 p.2.2.2.2).LikelyOutcome (exec p.2.2.2.2 s) s.slotSurvives 0 (cond = true) target)

/-- In a delay slot every jump and branch stops by name, a coprocessor branch where its coprocessor is usable (43 R401, 93
I20); the stop is the model's choice (log entry 24). -/
def Obligations.TransfersInSlotsStop : Prop :=
  ∀ (s : State) (i : Instr), s.inSlot = true → i.isTransfer = true → (∀ z, branchUnit i = some z → s.copUsable z = true) →
    exec i s = .refused .branchInDelaySlot

/-- The trap instructions (44 R410 to R422): Tr on the condition, nothing otherwise; immediates are sign-extended also
for the unsigned comparisons (log entry 47). In a delay slot a true trap is forbidden (44 R427, 93 I21); that it goes on
and raises Tr, with EPC, BD and BT any value, is the model's choice (log entry 23). -/
def Obligations.Traps : Prop :=
  ∀ (s : State) (rs rt : BitVec 5) (imm : BitVec 16) (a b m : Word), a = s.reg rs → b = s.reg rt →
    m = imm.signExtend 32 →
    s.TrapsOn (.tge rs rt) (b.toInt ≤ a.toInt) ∧ s.TrapsOn (.tgeu rs rt) (b.toNat ≤ a.toNat) ∧
    s.TrapsOn (.tlt rs rt) (a.toInt < b.toInt) ∧ s.TrapsOn (.tltu rs rt) (a.toNat < b.toNat) ∧
    s.TrapsOn (.teq rs rt) (a = b) ∧ s.TrapsOn (.tne rs rt) (a ≠ b) ∧
    s.TrapsOn (.tgei rs imm) (m.toInt ≤ a.toInt) ∧ s.TrapsOn (.tgeiu rs imm) (m.toNat ≤ a.toNat) ∧
    s.TrapsOn (.tlti rs imm) (a.toInt < m.toInt) ∧ s.TrapsOn (.tltiu rs imm) (a.toNat < m.toNat) ∧
    s.TrapsOn (.teqi rs imm) (a = m) ∧ s.TrapsOn (.tnei rs imm) (a ≠ m)

/-- SYSCALL and BREAK take their exception, whatever their code (44 R425, R426): ExcCode 8 or 9, the restart address,
Status as at every entry, no general register changed. Where the next instruction is an ERET or a TLB write that the
hardware may let through (70 R632, log entry 19), `leakNext = false` shuts the choice out. -/
def Obligations.SystemCallAndBreak : Prop :=
  ∀ (s : State) (code : BitVec 20), s.env.choice.leakNext = false →
    (∃ t, exec (.syscall code) s = .next t ∧ t = s.takeException .sys ∧ t.out.event = some (.exc .sys) ∧
      t.cp0.cause.extractLsb' 2 5 = 8 ∧ t.gpr = s.gpr ∧ t.mem = s.mem ∧
      (s.r3000 = true ∨ s.exl = false → t.cp0.epc = (if s.inSlot then s.pc - 4 else s.pc) &&& 0xFFFFFFFC)) ∧
    (∃ t, exec (.brk code) s = .next t ∧ t = s.takeException .bp ∧ t.out.event = some (.exc .bp) ∧
      t.cp0.cause.extractLsb' 2 5 = 9 ∧ t.gpr = s.gpr ∧ t.mem = s.mem ∧
      (s.r3000 = true ∨ s.exl = false → t.cp0.epc = (if s.inSlot then s.pc - 4 else s.pc) &&& 0xFFFFFFFC))

/-! ### Loads and stores (40, 20) -/

/-- LB, LBU, LH, LHU, LW on an undisturbed uncached address (40 R271 to R275, 20 R131, R160): the bytes of memory in
the byte order of the build, extended; nothing else changes. -/
def Obligations.UncachedLoads : Prop :=
  ∀ (s : State) (base rt : BitVec 5) (off : BitVec 16) (va p : Word) (b : Nat → Byte),
    va = s.reg base + off.signExtend 32 → p = va &&& 0x1FFFFFFF → (b = fun k => Memory.read s.mem (p.toNat + k)) →
    s.BusReads → s.wbuf = [] →
    (s.PlainAccess va va 1 →
      s.Yields (.lb base rt off) rt ((b 0).signExtend 32) ∧ s.Yields (.lbu base rt off) rt ((0 : BitVec 24) ++ b 0)) ∧
    (s.PlainAccess va va 2 → va.toNat % 2 = 0 → ∀ h : BitVec 16, h = (if s.cfg.bigEndian then b 0 ++ b 1 else b 1 ++ b 0) →
      s.Yields (.lh base rt off) rt (h.signExtend 32) ∧ s.Yields (.lhu base rt off) rt ((0 : BitVec 16) ++ h)) ∧
    (s.PlainAccess va va 4 → va.toNat % 4 = 0 →
      s.Yields (.lw base rt off) rt
        (if s.cfg.bigEndian then b 0 ++ b 1 ++ b 2 ++ b 3 else b 3 ++ b 2 ++ b 1 ++ b 0))

/-- LWL and LWR on an undisturbed uncached address (40 R276, R277, R287): the table of R287 for every `va[1:0]` and
both byte orders; no alignment exception. -/
def Obligations.UnalignedLoads : Prop :=
  ∀ (s : State) (base rt : BitVec 5) (off : BitVec 16) (va : Word) (b : Nat → Byte),
    va = s.reg base + off.signExtend 32 →
    (b = fun k => Memory.read s.mem ((va &&& 0x1FFFFFFC).toNat + k)) → s.BusReads → s.wbuf = [] →
    (s.PlainAccess va (leftStart s.cfg.bigEndian va) (leftCount s.cfg.bigEndian va) →
      s.Yields (.lwl base rt off) rt (lwlTable s.cfg.bigEndian (va.toNat % 4) (b 0) (b 1) (b 2) (b 3) (s.reg rt))) ∧
    (s.PlainAccess va (rightStart s.cfg.bigEndian va) (rightCount s.cfg.bigEndian va) →
      s.Yields (.lwr base rt off) rt (lwrTable s.cfg.bigEndian (va.toNat % 4) (b 0) (b 1) (b 2) (b 3) (s.reg rt)))

/-- SB, SH, SW on an undisturbed uncached address and an empty write buffer (40 R278 to R280, 20 R131, R161, R180): the
store waits in the buffer; when it has drained exactly the stored bytes have changed, in the byte order of the build. -/
def Obligations.UncachedStores : Prop :=
  ∀ (s : State) (base rt : BitVec 5) (off : BitVec 16) (va p r : Word),
    va = s.reg base + off.signExtend 32 → p = va &&& 0x1FFFFFFF → r = s.reg rt →
    Memory.wf s.mem = true → s.wbuf = [] → s.env.pins.errWrite = false →
    (s.PlainAccess va va 1 → ∃ t, exec (.sb base rt off) s = .next t ∧ s.StoreFrame t ∧
      s.MemoryAfter t p fun j => if j < 1 then some (byteOf r 0) else none) ∧
    (s.PlainAccess va va 2 → va.toNat % 2 = 0 → ∃ t, exec (.sh base rt off) s = .next t ∧ s.StoreFrame t ∧
      s.MemoryAfter t p fun j => if j < 2 then some (byteOf r (if s.cfg.bigEndian then 1 - j else j)) else none) ∧
    (s.PlainAccess va va 4 → va.toNat % 4 = 0 → ∃ t, exec (.sw base rt off) s = .next t ∧ s.StoreFrame t ∧
      s.MemoryAfter t p fun j => if j < 4 then some (byteOf r (if s.cfg.bigEndian then 3 - j else j)) else none)

/-- SWL and SWR on an undisturbed uncached address and an empty write buffer (40 R281, R282, R287): the table of R287
for every `va[1:0]` and both byte orders; the other bytes of memory are unchanged. -/
def Obligations.UnalignedStores : Prop :=
  ∀ (s : State) (base rt : BitVec 5) (off : BitVec 16) (va r : Word),
    va = s.reg base + off.signExtend 32 → r = s.reg rt →
    Memory.wf s.mem = true → s.wbuf = [] → s.env.pins.errWrite = false →
    (s.PlainAccess va (leftStart s.cfg.bigEndian va) (leftCount s.cfg.bigEndian va) →
      ∃ t, exec (.swl base rt off) s = .next t ∧ s.StoreFrame t ∧
        s.MemoryAfter t (va &&& 0x1FFFFFFC) (swlTable s.cfg.bigEndian (va.toNat % 4) r)) ∧
    (s.PlainAccess va (rightStart s.cfg.bigEndian va) (rightCount s.cfg.bigEndian va) →
      ∃ t, exec (.swr base rt off) s = .next t ∧ s.StoreFrame t ∧
        s.MemoryAfter t (va &&& 0x1FFFFFFC) (swrTable s.cfg.bigEndian (va.toNat % 4) r))

/-- A word stored and read back at once is the word stored, whatever the write buffer holds: a load waits for the
buffered stores it overlaps (20 R181). In a D-cache set in scratchpad mode, too, and there memory, the write buffer,
the tags and the other bytes and set are unchanged (20 R205). That a set covers an address by the valid tag of the line
the address indexes, and that set 0 takes the store and answers the load, with set 1 unchanged, where both D-sets cover
the address, R205 does not say: the model's choice, log entry 37 (DESIGN CHOICE). -/
def Obligations.StoreThenLoad : Prop :=
  (∀ (s : State) (base rt rt' : BitVec 5) (off : BitVec 16) (va : Word), va = s.reg base + off.signExtend 32 →
    va.toNat % 4 = 0 → Memory.wf s.mem = true → s.PlainAccess va va 4 → s.BusReads → s.env.pins.errWrite = false →
      ∃ t u, exec (.sw base rt off) s = .next t ∧ exec (.lw base rt' off) t = .next u ∧ s.Sequential t ∧ t.Sequential u ∧
        ∀ k, u.reg k = if k = rt' ∧ rt' ≠ 0 then s.reg rt else s.reg k) ∧
  (∀ (s : State) (base rt rt' : BitVec 5) (off : BitVec 16) (va : Word) (w : Bool),
    va = s.reg base + off.signExtend 32 → va.toNat % 4 = 0 → s.Inv → s.ScratchAccess va w →
      ∃ t u, exec (.sw base rt off) s = .next t ∧ exec (.lw base rt' off) t = .next u ∧
        s.AccessFrame t ∧ t.gpr = s.gpr ∧ t.mem = s.mem ∧ t.wbuf = s.wbuf ∧ t.dcache.way (!w) = s.dcache.way (!w) ∧
        (t.dcache.way w).tags = (s.dcache.way w).tags ∧
        (DataAfter (s.dcache.way w) (t.dcache.way w) (offsetOf s.dsize va) fun j =>
          if j < 4 then some (byteOf (s.reg rt) (if s.cfg.bigEndian then 3 - j else j)) else none) ∧
        t.AccessFrame u ∧ u.mem = t.mem ∧ u.wbuf = t.wbuf ∧ u.dcache = t.dcache ∧
        ∀ k, u.reg k = if k = rt' ∧ rt' ≠ 0 then s.reg rt else s.reg k)

/-- Alignment (20 R141): a halfword access at an odd address and a word access at an address that is no multiple of 4
raise AdEL or AdES with BadVAddr the address; no memory is accessed and no register is written. -/
def Obligations.MisalignedAccess : Prop :=
  ∀ (s : State) (base rt : BitVec 5) (off : BitVec 16) (va : Word), va = s.reg base + off.signExtend 32 →
    (va.toNat % 2 ≠ 0 → exec (.lh base rt off) s = s.raised (.adel va) ∧ exec (.lhu base rt off) s = s.raised (.adel va) ∧
      exec (.sh base rt off) s = s.raised (.ades va)) ∧
    (va.toNat % 4 ≠ 0 → exec (.lw base rt off) s = s.raised (.adel va) ∧ exec (.ll base rt off) s = s.raised (.adel va) ∧
      exec (.sw base rt off) s = s.raised (.ades va) ∧ exec (.sc base rt off) s = s.raised (.ades va) ∧
      ∀ p ∈ [((1 : BitVec 2), Instr.lwc1 base rt off, Instr.swc1 base rt off), (2, .lwc2 base rt off, .swc2 base rt off),
          (3, .lwc3 base rt off, .swc3 base rt off)],
        s.copUsable p.1 = true → (s.cpPresent p.1 && s.env.pins.cpFault) = false →
          exec p.2.1 s = s.raised (.adel va) ∧ exec p.2.2 s = s.raised (.ades va)) ∧
    (∀ e, e = .adel va ∨ e = .ades va → ∃ t, s.raised e = .next t ∧ t.cp0.badVAddr = va ∧ t.gpr = s.gpr ∧
      t.mem = s.mem ∧ t.wbuf = s.wbuf ∧ t.dcache = s.dcache)

/-- Privilege (20 R143): in User mode an address with bit 31 set raises AdEL for a fetch or load and AdES for a store,
if the access is aligned. -/
def Obligations.UserKernelAddress : Prop :=
  ∀ (s : State) (base rt : BitVec 5) (off : BitVec 16) (va : Word), va = s.reg base + off.signExtend 32 →
    s.userMode = true → va.getLsbD 31 = true →
    (va.toNat % 4 = 0 → s.fetchWord va = .raise (.adel va) s) ∧
    (∀ i ∈ [Instr.lb base rt off, .lbu base rt off, .lwl base rt off, .lwr base rt off], exec i s = s.raised (.adel va)) ∧
    (∀ i ∈ [Instr.sb base rt off, .swl base rt off, .swr base rt off], exec i s = s.raised (.ades va)) ∧
    (va.toNat % 2 = 0 → exec (.lh base rt off) s = s.raised (.adel va) ∧ exec (.lhu base rt off) s = s.raised (.adel va) ∧
      exec (.sh base rt off) s = s.raised (.ades va)) ∧
    (va.toNat % 4 = 0 → exec (.lw base rt off) s = s.raised (.adel va) ∧ exec (.ll base rt off) s = s.raised (.adel va) ∧
      exec (.sw base rt off) s = s.raised (.ades va) ∧ exec (.sc base rt off) s = s.raised (.ades va))

/-- LL and SC on an undisturbed uncached address (40 R283, R284, 20 R190, R191): LL reads the word, sets LLbit, LLAddr
and the bus lock; SC stores and writes 1 if LLbit is set, else writes 0 and stores nothing; either way LLbit and the
lock are cleared. What in this is no statement of the manual is log entry 46 (PRESUMED): that SC stores and writes 1,
or writes 0, by LLbit (the spec's own decision 92 D5); that LL sets LLbit and SC clears it (its decision 92 D8); that
an SC whose link is gone clears the bus lock too (R191 speaks only of an SC that starts a write); that LL asserts the
lock where a line answers its read. On a line the D-cache holds LL reads the line, with the lock asserted in
write-through mode only; SC updates the line, in write-through mode memory as well (20 R173), and without the link
stores nothing. That set 0 answers LL and takes SC where both sets hold the address is log entry 55 (DESIGN CHOICE: 20
R170 to R173 are silent). -/
def Obligations.LinkedPair : Prop :=
  (∀ (s : State) (base rt : BitVec 5) (off : BitVec 16) (va p : Word) (b : Nat → Byte),
    va = s.reg base + off.signExtend 32 → p = va &&& 0x1FFFFFFF → (b = fun k => Memory.read s.mem (p.toNat + k)) →
    va.toNat % 4 = 0 → s.PlainAccess va va 4 → s.wbuf = [] →
    (s.BusReads → ∃ t, exec (.ll base rt off) s = .next t ∧
      s.GprsAfter t rt (if s.cfg.bigEndian then b 0 ++ b 1 ++ b 2 ++ b 3 else b 3 ++ b 2 ++ b 1 ++ b 0) ∧ s.Sequential t ∧
      t.llbit = true ∧ t.cp0.llAddr = p ∧ t.busLock = true ∧ s.SameMemory t ∧
      t = { s with gpr := t.gpr, pc := t.pc, npc := t.npc, inSlot := false, taken := false, slotOfJr := false,
                   tlbRecent := none, llbit := true, busLock := true, cp0 := { s.cp0 with llAddr := p } }) ∧
    (s.llbit = true → Memory.wf s.mem = true → s.env.pins.errWrite = false → ∃ t, exec (.sc base rt off) s = .next t ∧
      s.GprsAfter t rt 1 ∧ s.Sequential t ∧
      (s.MemoryAfter t p fun j => if j < 4 then some (byteOf (s.reg rt) (if s.cfg.bigEndian then 3 - j else j)) else none) ∧
      t = { s with gpr := t.gpr, pc := t.pc, npc := t.npc, inSlot := false, taken := false, slotOfJr := false,
                   tlbRecent := none, llbit := false, busLock := false, wbuf := t.wbuf }) ∧
    (s.llbit = false → ∃ t, exec (.sc base rt off) s = .next t ∧ s.GprsAfter t rt 0 ∧ s.Sequential t ∧ s.SameMemory t ∧
      t = { s with gpr := t.gpr, pc := t.pc, npc := t.npc, inSlot := false, taken := false, slotOfJr := false,
                   tlbRecent := none, llbit := false, busLock := false })) ∧
  (∀ (s : State) (base rt : BitVec 5) (off : BitVec 16) (va p : Word) (w : Bool) (b : Nat → Byte),
    va = s.reg base + off.signExtend 32 → p = va &&& 0x1FFFFFFF → va.toNat % 4 = 0 → s.Inv → s.CachedAccess va →
    s.dcache.hitWay s.dOn0 s.dOn1 s.dsize va p = some w →
    (b = fun k => Sparse.get 0 (s.dcache.way w).data (offsetOf s.dsize va + k)) →
    (∃ t, exec (.ll base rt off) s = .next t ∧
      s.GprsAfter t rt (if s.cfg.bigEndian then b 0 ++ b 1 ++ b 2 ++ b 3 else b 3 ++ b 2 ++ b 1 ++ b 0) ∧ s.Sequential t ∧
      t = { s with gpr := t.gpr, pc := t.pc, npc := t.npc, inSlot := false, taken := false, slotOfJr := false,
                   tlbRecent := none, llbit := true, busLock := s.busLock || !s.cp0.ccc.getLsbD 5,
                   cp0 := { s.cp0 with llAddr := p } }) ∧
    (s.llbit = true → s.cp0.ccc.getLsbD 5 = true → ∃ t, exec (.sc base rt off) s = .next t ∧ s.GprsAfter t rt 1 ∧
      s.Sequential t ∧ t.dcache.way (!w) = s.dcache.way (!w) ∧
      TagAfter (s.dcache.way w) (t.dcache.way w) (lineOf s.dsize va)
        { (s.dcache.way w).tagAt (lineOf s.dsize va) with dirty := true } ∧
      (DataAfter (s.dcache.way w) (t.dcache.way w) (offsetOf s.dsize va) fun j =>
        if j < 4 then some (byteOf (s.reg rt) (if s.cfg.bigEndian then 3 - j else j)) else none) ∧
      t = { s with gpr := t.gpr, pc := t.pc, npc := t.npc, inSlot := false, taken := false, slotOfJr := false,
                   tlbRecent := none, llbit := false, busLock := false, dcache := t.dcache }) ∧
    (s.llbit = true → s.cp0.ccc.getLsbD 5 = false → s.wbuf = [] → s.touchesIceport p 4 = false →
      s.env.pins.errWrite = false → ∃ t, exec (.sc base rt off) s = .next t ∧ s.GprsAfter t rt 1 ∧ s.Sequential t ∧
      t.dcache.way (!w) = s.dcache.way (!w) ∧ (t.dcache.way w).tags = (s.dcache.way w).tags ∧
      (DataAfter (s.dcache.way w) (t.dcache.way w) (offsetOf s.dsize va) fun j =>
        if j < 4 then some (byteOf (s.reg rt) (if s.cfg.bigEndian then 3 - j else j)) else none) ∧
      (s.MemoryAfter t p fun j => if j < 4 then some (byteOf (s.reg rt) (if s.cfg.bigEndian then 3 - j else j)) else none) ∧
      t = { s with gpr := t.gpr, pc := t.pc, npc := t.npc, inSlot := false, taken := false, slotOfJr := false,
                   tlbRecent := none, llbit := false, busLock := false, dcache := t.dcache, wbuf := t.wbuf }) ∧
    (s.llbit = false → ∃ t, exec (.sc base rt off) s = .next t ∧ s.GprsAfter t rt 0 ∧ s.Sequential t ∧
      t = { s with gpr := t.gpr, pc := t.pc, npc := t.npc, inSlot := false, taken := false, slotOfJr := false,
                   tlbRecent := none, llbit := false, busLock := false }))

/-- SYNC (40 R285, 20 R182): every buffered store reaches memory, oldest first; no register changes. -/
def Obligations.SyncEmptiesBuffer : Prop :=
  ∀ s : State, s.env.pins.errWrite = false → (∀ e ∈ s.wbuf, s.iceportReg e.addr = none) →
    ∃ t, exec .sync s = .next t ∧ t.wbuf = [] ∧
      t.mem = s.wbuf.foldl (fun m e => Memory.writeBytes m e.addr e.bytes) s.mem ∧
      t = { s with pc := s.npc, npc := s.npc + 4, inSlot := false, taken := false, slotOfJr := false, tlbRecent := none,
                   mem := t.mem, wbuf := [] }

/-- Where an address goes without the TLB (20 R121, R150, R155): kseg0 and kseg1 are the low 512 Mbytes, kseg1 uncached;
kuseg and kseg2 map to themselves while there is no TLB or it is off. Before that the alignment of a fetch is checked,
then the mode: a fetch from an address that is no multiple of 4 raises AdEL (R142), an address with bit 31 set in User
mode raises AdEL or AdES (R143). -/
def Obligations.SegmentTranslation : Prop :=
  ∀ (s : State) (va : Word) (k : Access) (iso : Bool),
    (va.toNat % 4 ≠ 0 → s.translate va .fetch iso = .raise (.adel va) s ∧ s.fetchWord va = .raise (.adel va) s) ∧
    ((k = .fetch → va.toNat % 4 = 0) →
      (s.userMode = true → va.getLsbD 31 = true →
        s.translate va k iso = .raise (if k = .store then .ades va else .adel va) s) ∧
      ((s.userMode = true → va.getLsbD 31 = false) →
        (va.extractLsb' 29 3 = 0b101#3 →
          s.translate va k iso = .ok ((0 : BitVec 3) ++ va.extractLsb' 0 29, .uncached) s) ∧
        (va.extractLsb' 29 3 = 0b100#3 →
          s.translate va k iso = .ok ((0 : BitVec 3) ++ va.extractLsb' 0 29, s.segAttr k) s) ∧
        (va.extractLsb' 30 2 ≠ 0b10#2 → (s.cfg.tlbPresent = false ∨ s.cp0.ccc.getLsbD 6 = false) →
          s.translate va k iso = .ok (va, s.segAttr k) s)))

/-- Translation of a load or store through the joint TLB (20 R150 to R154, 60 R521 to R523): no matching entry is a
refill exception, one entry with V = 0 an invalid one, a store with D = 0 a modified one; otherwise the frame number
with the page offset. A fetch goes through the instruction TLB (10 R81, 20 R153): the entry it holds for the page, or
one of two, is used, whatever the joint TLB says (93 I37, log entry 35), but for two matches there; otherwise the joint
TLB gives the entry, which the instruction TLB then holds if it is of the current ASID (log entry 35). Two matching
entries of the joint TLB, which the manual leaves undefined (10 R82), stop the model: the spec's own decision 92 D27
(93 I24) with log entry 25; that they stop a fetch also where the instruction TLB already holds its page is the model's
choice, log entry 25 (DESIGN CHOICE). -/
def Obligations.TlbTranslation : Prop :=
  (∀ (s : State) (va : Word) (k : Access), k ≠ .fetch → s.tlbEnabled = true →
    (s.userMode = true → va.getLsbD 31 = false) → va.extractLsb' 30 2 ≠ 0b10#2 →
    ((∀ j : Fin 32, j.val ≤ s.cfg.tlbLast.toNat → (s.tlb[j.val]'j.isLt).matchesVa s.asid va = false) →
      s.translate va k false = .raise (.tlbRefill (k = .store) va) s) ∧
    (∀ (i : Fin 32) (e : TlbEntry), e = s.tlb[i.val]'i.isLt → i.val ≤ s.cfg.tlbLast.toNat →
      e.matchesVa s.asid va = true →
      (∀ j : Fin 32, j ≠ i → j.val ≤ s.cfg.tlbLast.toNat → (s.tlb[j.val]'j.isLt).matchesVa s.asid va = false) →
        (e.valid = false → s.translate va k false = .raise (.tlbInvalid (k = .store) va) s) ∧
        (e.valid = true → k = .store → e.dirty = false → s.translate va k false = .raise (.mod va) s) ∧
        (e.valid = true → (k = .store → e.dirty = true) → ∀ a, s.algAttr e.alg k = some a →
          s.translate va k false = .ok (if e.big then e.pfn.extractLsb' 12 8 ++ va.extractLsb' 0 24
            else e.pfn ++ va.extractLsb' 0 12, a) s)) ∧
    (∀ i j : Fin 32, i ≠ j → i.val ≤ s.cfg.tlbLast.toNat → j.val ≤ s.cfg.tlbLast.toNat →
      (s.tlb[i.val]'i.isLt).matchesVa s.asid va = true → (s.tlb[j.val]'j.isLt).matchesVa s.asid va = true →
        s.translate va k false = .refuse .tlbMultipleMatch)) ∧
  (∀ (s : State) (va : Word), s.tlbEnabled = true → va.toNat % 4 = 0 → (s.userMode = true → va.getLsbD 31 = false) →
    va.extractLsb' 30 2 ≠ 0b10#2 →
    (∀ x l, (s.heldEntries.filter fun x => x.vpnEq va) = x :: l →
      (∀ i j : Fin 32, i ≠ j → i.val ≤ s.cfg.tlbLast.toNat → j.val ≤ s.cfg.tlbLast.toNat →
        (s.tlb[i.val]'i.isLt).matchesVa s.asid va = true → (s.tlb[j.val]'j.isLt).matchesVa s.asid va = false) →
      ∃ e ∈ x :: l, ∃ t : State, t = { s with itlb := t.itlb } ∧
        (e.valid = false → s.translate va .fetch false = .raise (.tlbInvalid false va) t) ∧
        (e.valid = true → ∀ a, s.algAttr e.alg .fetch = some a →
          s.translate va .fetch false = .ok (if e.big then e.pfn.extractLsb' 12 8 ++ va.extractLsb' 0 24
            else e.pfn ++ va.extractLsb' 0 12, a) t)) ∧
    ((∀ e ∈ s.heldEntries, e.vpnEq va = false) →
      ((∀ j : Fin 32, j.val ≤ s.cfg.tlbLast.toNat → (s.tlb[j.val]'j.isLt).matchesVa s.asid va = false) →
        s.translate va .fetch false = .raise (.tlbRefill false va) { s with itlb := s.heldEntries }) ∧
      (∀ (i : Fin 32) (e : TlbEntry), e = s.tlb[i.val]'i.isLt → i.val ≤ s.cfg.tlbLast.toNat →
        e.matchesVa s.asid va = true →
        (∀ j : Fin 32, j ≠ i → j.val ≤ s.cfg.tlbLast.toNat → (s.tlb[j.val]'j.isLt).matchesVa s.asid va = false) →
          (e.valid = false → s.translate va .fetch false = .raise (.tlbInvalid false va) { s with itlb := s.heldEntries }) ∧
          (e.valid = true → ∀ a, s.algAttr e.alg .fetch = some a → ∃ t : State, t = { s with itlb := t.itlb } ∧
            (e.isGlobal = true ∨ e.asid = s.cp0.entryHi.extractLsb' 0 8 → t.itlb.head? = some e) ∧
            (∀ x ∈ t.itlb, x = e ∨ x ∈ s.heldEntries) ∧
            s.translate va .fetch false = .ok (if e.big then e.pfn.extractLsb' 12 8 ++ va.extractLsb' 0 24
              else e.pfn ++ va.extractLsb' 0 12, a) t))) ∧
    (∀ i j : Fin 32, i ≠ j → i.val ≤ s.cfg.tlbLast.toNat → j.val ≤ s.cfg.tlbLast.toNat →
      (s.tlb[i.val]'i.isLt).matchesVa s.asid va = true → (s.tlb[j.val]'j.isLt).matchesVa s.asid va = true →
        s.translate va .fetch false = .refuse .tlbMultipleMatch))

/-! ### Coprocessors and CP0 (45, 46) -/

/-- The usability check comes before everything else an instruction of coprocessors 1 to 3 does (45 R441): CpU with the
unit's number. CP0 and cache instructions where CP0 is not usable (46 R460, 47 R480): CpU with unit 0, but RI for the
cache instructions; MFC0 and MTC0 of Rotate and CMask are always allowed. A TLB instruction without a usable TLB also
raises CpU (90 C1). -/
def Obligations.UnusableCoprocessors : Prop :=
  (∀ (s : State) (base rt rd : BitVec 5) (off : BitVec 16) (low : BitVec 11) (cofun : BitVec 25),
     (s.copUsable 1 = false → ∀ i ∈ [Instr.lwc1 base rt off, .swc1 base rt off, .mtc1 rt rd low, .mfc1 rt rd low,
       .ctc1 rt rd low, .cfc1 rt rd low, .cop1 cofun], exec i s = s.raised (.cpu 1)) ∧
     (s.copUsable 2 = false → ∀ i ∈ [Instr.lwc2 base rt off, .swc2 base rt off, .mtc2 rt rd low, .mfc2 rt rd low,
       .ctc2 rt rd low, .cfc2 rt rd low, .cop2 cofun], exec i s = s.raised (.cpu 2)) ∧
     (s.copUsable 3 = false → ∀ i ∈ [Instr.lwc3 base rt off, .swc3 base rt off, .mtc3 rt rd low, .mfc3 rt rd low,
       .ctc3 rt rd low, .cfc3 rt rd low, .cop3 cofun], exec i s = s.raised (.cpu 3)) ∧
     (s.recent = [] → (s.copUsable 0 = true ↔ s.kernelMode = true ∨ s.cp0.status.getLsbD 28 = true) ∧
       ∀ z : BitVec 2, z ≠ 0 → s.copUsable z = s.cp0.status.getLsbD (28 + z.toNat))) ∧
  (∀ (s : State) (rt rd base : BitVec 5) (off : BitVec 16),
     (s.copUsable 0 = false →
       (∀ i ∈ [Instr.tlbr, .tlbwi, .tlbwr, .tlbp, .rfe, .eret, .waiti], exec i s = s.raised (.cpu 0)) ∧
       (rd ≠ 23 → rd ≠ 24 → exec (.mfc0 rt rd) s = s.raised (.cpu 0) ∧ exec (.mtc0 rt rd) s = s.raised (.cpu 0)) ∧
       (∀ i ∈ [Instr.flushi, .flushd, .flushid, .wb base off], exec i s = s.raised .ri)) ∧
     (s.tlbEnabled = false → ∀ i ∈ [Instr.tlbr, .tlbwi, .tlbwr, .tlbp], exec i s = s.raised (.cpu 0)))

/-- The register moves and operations of coprocessors 1 to 3, usable and not requesting their exception (45 R440, R444
to R448): the coprocessor receives the word and for MTCz and CTCz the register; MFCz and CFCz write what an attached
coprocessor drives; nothing else changes. Where no coprocessor is attached they execute all the same, without an
exception, and MFCz and CFCz write any value: the manual says nothing there, this is the spec's own decision 92 D35 (45
R455; log entry 12). A request of an attached coprocessor is the FPE exception (60 R535). -/
def Obligations.CoprocessorMoves : Prop :=
  ∀ (s : State) (rt rd : BitVec 5) (low : BitVec 11) (cofun : BitVec 25),
    ∀ p ∈ [((1 : BitVec 2), Instr.mtc1 rt rd low, Instr.ctc1 rt rd low, Instr.mfc1 rt rd low, Instr.cfc1 rt rd low,
          Instr.cop1 cofun),
        (2, .mtc2 rt rd low, .ctc2 rt rd low, .mfc2 rt rd low, .cfc2 rt rd low, .cop2 cofun),
        (3, .mtc3 rt rd low, .ctc3 rt rd low, .mfc3 rt rd low, .cfc3 rt rd low, .cop3 cofun)],
      s.copUsable p.1 = true →
      ((s.cpPresent p.1 && s.env.pins.cpFault) = false →
        (∀ i ∈ [p.2.1, p.2.2.1], ∃ t, exec i s = .next t ∧ s.CopFrame t p.1 i (some (s.reg rt)) ∧
          ∀ k, t.reg k = s.reg k) ∧
        (∀ i ∈ [p.2.2.2.1, p.2.2.2.2.1], ∃ v t, exec i s = .next t ∧ s.CopFrame t p.1 i none ∧ s.GprsAfter t rt v ∧
          (s.cpPresent p.1 = true → v = s.env.pins.cpData)) ∧
        (∃ t, exec p.2.2.2.2.2 s = .next t ∧ s.CopFrame t p.1 p.2.2.2.2.2 none ∧ ∀ k, t.reg k = s.reg k)) ∧
      ((s.cpPresent p.1 && s.env.pins.cpFault) = true →
        ∀ i ∈ [p.2.1, p.2.2.1, p.2.2.2.1, p.2.2.2.2.1, p.2.2.2.2.2], exec i s = s.raised .fpe)

/-- LWCz and SWCz, the coprocessor usable. A request of an attached coprocessor is the FPE exception, whatever the
address: it ranks above the exceptions of a data access (60 R510, R535). Without a request, on an undisturbed uncached
address (45 R442, R443): the word of memory goes to the coprocessor; what an attached coprocessor drives goes to
memory. Where no coprocessor is attached they execute all the same, without an exception, and SWCz stores any value:
the manual says nothing there, this is the spec's own decision 92 D35 (45 R455; log entry 12). -/
def Obligations.CoprocessorMemory : Prop :=
  ∀ (s : State) (base rt : BitVec 5) (off : BitVec 16) (va q : Word) (b : Nat → Byte),
    va = s.reg base + off.signExtend 32 → q = va &&& 0x1FFFFFFF → (b = fun k => Memory.read s.mem (q.toNat + k)) →
    ∀ p ∈ [((1 : BitVec 2), Instr.lwc1 base rt off, Instr.swc1 base rt off), (2, .lwc2 base rt off, .swc2 base rt off),
        (3, .lwc3 base rt off, .swc3 base rt off)],
      s.copUsable p.1 = true →
      ((s.cpPresent p.1 && s.env.pins.cpFault) = true →
        exec p.2.1 s = s.raised .fpe ∧ exec p.2.2 s = s.raised .fpe) ∧
      ((s.cpPresent p.1 && s.env.pins.cpFault) = false → va.toNat % 4 = 0 → s.PlainAccess va va 4 → s.wbuf = [] →
        (s.BusReads → ∃ t, exec p.2.1 s = .next t ∧ (∀ k, t.reg k = s.reg k) ∧
          s.CopFrame t p.1 p.2.1
            (some (if s.cfg.bigEndian then b 0 ++ b 1 ++ b 2 ++ b 3 else b 3 ++ b 2 ++ b 1 ++ b 0))) ∧
        (Memory.wf s.mem = true → s.env.pins.errWrite = false → ∃ v t, exec p.2.2 s = .next t ∧
          (s.cpPresent p.1 = true → v = s.env.pins.cpData) ∧ (∀ k, t.reg k = s.reg k) ∧
          (s.MemoryAfter t q fun j => if j < 4 then some (byteOf v (if s.cfg.bigEndian then 3 - j else j)) else none) ∧
          { s with wbuf := t.wbuf }.CopFrame t p.1 p.2.2 none))

/-- MTC0 (46 R462, R470, 10 R33): the writable bits of the named register take the written value and nothing else
changes, but for Random, which a write to Wired sets to its upper bound (10 R39), the timer's pending bit, which a
write to Compare clears (10 R44), and the instruction TLB, which a write to EntryHi purges (10 R81). That Status bit 5
is written in R3000 mode only is log entry 44. A value of CCC that clears CMP after it has been set, or that names
another cache size than the one built, stops the model (10 R63, 93 I30; log entries 30 and 56). Every other value of
CCC is stored, also one with MAD = 1 and MUL = 0 or with enables of units that are not built, which 93 I30 says to
refuse: that store is the model's choice, log entry 30 (DESIGN CHOICE). That a write to Random, BadVAddr or PRId
changes nothing is the spec's own decision 92 D18, that one to an undefined number, or to an MMU register without a
TLB, does nothing its decision 92 D17 with log entry 12; that the low bits of EPC and the other address registers stay
zero, against vector Z11, is log entry 45. -/
def Obligations.MoveToCp0 : Prop :=
  ∀ (s : State) (rt rd : BitVec 5) (v : Word), s.cp0.Inv → v = s.reg rt → (rd = 23 ∨ rd = 24 ∨ s.copUsable 0 = true) →
    (rd = 16 → ¬s.CmpKept v → exec (.mtc0 rt rd) s = .refused .cmpCleared) ∧
    (rd = 16 → s.CmpKept v → ¬s.SizesMatch v → exec (.mtc0 rt rd) s = .refused .cacheSizeMismatch) ∧
    ((rd = 16 → s.CmpKept v ∧ s.SizesMatch v) → ∃ t, exec (.mtc0 rt rd) s = .next t ∧
      (∀ n, t.cp0.field n =
        if isMmuReg rd = true ∧ s.cfg.tlbPresent = false then s.cp0.field n
        else if n = 1 ∧ rd = 6 then s.cfg.tlbLast.zeroExtend 32
        else if n = rd then (s.cp0.field n &&& ~~~mtc0Mask s.r3000 n) ||| (v &&& mtc0Mask s.r3000 n)
        else s.cp0.field n) ∧
      t.timerPending = (s.timerPending && rd != 11) ∧
      t.itlb = (if rd = 10 ∧ s.cfg.tlbPresent = true then [] else s.itlb) ∧
      t = { s with pc := s.npc, npc := s.npc + 4, inSlot := false, taken := false, slotOfJr := false, tlbRecent := none,
                   cp0 := t.cp0, timerPending := t.timerPending, itlb := t.itlb, recent := t.recent })

/-- MFC0 (46 R461): each register reads as it is held, but Status bit 5 in R4000 mode, CCC.TE without a TLB and the
live bits IP[7:2] of Cause (10 R53); PRId is the build's (10 R60). That Status bit 5 reads 0 in R4000 mode (10 R46
reserves it), against vector Z1, is log entry 44; that TE reads 0 without a TLB is the spec's derived reading in 10 R63
(log entry 12); that Random gives the value drawn at the boundary of the step is log entry 10 (92 D15). A number that
is no register, or an MMU register without a TLB, gives any value and raises nothing: the manual defines nothing there
(10 R33), this is the spec's own decision 92 D17 (log entry 12). -/
def Obligations.MoveFromCp0 : Prop :=
  ∀ (s : State) (rt rd : BitVec 5), (rd = 23 ∨ rd = 24 ∨ s.copUsable 0 = true) →
    (rd ∈ [7, 8, 9, 11, 14, 17, 18, 19, 20, 21, 23, 24, 30] → s.Yields (.mfc0 rt rd) rt (s.cp0.field rd)) ∧
    (rd ∈ [0, 2, 4, 5, 6, 10] → s.cfg.tlbPresent = true → s.Yields (.mfc0 rt rd) rt (s.cp0.field rd)) ∧
    (rd = 1 → s.cfg.tlbPresent = true → s.cp0.Inv → s.cp0.wired.toNat ≤ s.cp0.random.toNat →
      s.cp0.random.toNat ≤ s.cfg.tlbLast.toNat → s.Yields (.mfc0 rt rd) rt s.cp0.random) ∧
    (rd = 12 → s.Yields (.mfc0 rt rd) rt (if s.r3000 then s.cp0.status else s.cp0.status &&& 0xFFFFFFDF)) ∧
    (rd = 13 → s.Yields (.mfc0 rt rd) rt (s.cp0.cause ||| ((0 : BitVec 16) ++ s.ip.extractLsb' 2 6 ++ (0 : BitVec 10)))) ∧
    (rd = 15 → s.Yields (.mfc0 rt rd) rt
      ((0 : BitVec 16) ++ s.cfg.pridLimp ++ s.cfg.pridUimp ++ s.cfg.pridLrev ++ s.cfg.pridUrev)) ∧
    (rd = 16 → s.Yields (.mfc0 rt rd) rt (if s.cfg.tlbPresent then s.cp0.ccc else s.cp0.ccc &&& 0xFFFFFFBF)) ∧
    (rd ∈ [3, 22, 25, 26, 27, 28, 29, 31] ∨ isMmuReg rd = true ∧ s.cfg.tlbPresent = false →
      ∃ v, s.Yields (.mfc0 rt rd) rt v)

/-- TLBWI, TLBWR and TLBR with a usable TLB and outside every hazard distance (46 R463 to R465): the indexed or the
random entry takes what EntryHi, EntryLo and PageMask describe and no other entry changes; TLBR reads an entry into
them. An Index or a Wired beyond the last entry stops them: the model's choice (log entry 27; 93 I26, I27). That TLBR
purges the instruction TLB, and that the next access may still see the ASID from before it, is the model's reading (log
entries 35 and 18; 70 R630). -/
def Obligations.TlbReadsAndWrites : Prop :=
  ∀ s : State, s.copUsable 0 = true → s.tlbEnabled = true → s.recent = [] →
    (∀ i : BitVec 5, i = s.cp0.index.extractLsb' 0 5 → i.toNat ≤ s.cfg.tlbLast.toNat →
      (∃ t, exec .tlbwi s = .next t ∧ s.WritesEntry t i) ∧
      (∃ t, exec .tlbr s = .next t ∧ t.itlb = [] ∧
        t.cp0.pageMask = (if (s.tlb[i.toNat]'i.isLt).big then 0x2000 else 0) ∧
        t.cp0.entryHi = (s.tlb[i.toNat]'i.isLt).vpn ++ (0 : BitVec 4) ++ (s.tlb[i.toNat]'i.isLt).asid ∧
        t.cp0.entryLo.extractLsb' 6 26 = (0 : BitVec 6) ++ (s.tlb[i.toNat]'i.isLt).pfn ∧
        t.cp0.entryLo.extractLsb' 3 3 = (s.tlb[i.toNat]'i.isLt).alg ∧
        t.cp0.entryLo.getLsbD 2 = (s.tlb[i.toNat]'i.isLt).dirty ∧
        t.cp0.entryLo.getLsbD 1 = (s.tlb[i.toNat]'i.isLt).valid ∧
        t.cp0.entryLo.getLsbD 0 = (s.tlb[i.toNat]'i.isLt).isGlobal ∧
        t = { s with pc := s.npc, npc := s.npc + 4, inSlot := false, taken := false, slotOfJr := false,
                     tlbRecent := some (.read (s.cp0.entryHi.extractLsb' 0 8)), itlb := [],
                     cp0 := { s.cp0 with pageMask := t.cp0.pageMask, entryHi := t.cp0.entryHi, entryLo := t.cp0.entryLo } })) ∧
    (∀ i : BitVec 5, s.randomIndex = some i → ∃ t, exec .tlbwr s = .next t ∧ s.WritesEntry t i) ∧
    (s.cp0.index.extractLsb' 0 5 > s.cfg.tlbLast →
      exec .tlbwi s = .refused .tlbIndexRange ∧ exec .tlbr s = .refused .tlbIndexRange) ∧
    (s.randomIndex = none → exec .tlbwr s = .refused .wiredRange)

/-- TLBP with a usable TLB and outside every hazard distance (46 R466): the number of the one entry that matches
EntryHi, or P = 1; nothing else changes. -/
def Obligations.TlbProbe : Prop :=
  ∀ s : State, s.copUsable 0 = true → s.tlbEnabled = true → s.recent = [] →
    (∀ i : Fin 32, i.val ≤ s.cfg.tlbLast.toNat →
      (s.tlb[i.val]'i.isLt).matchesVa (s.cp0.entryHi.extractLsb' 0 8) (s.cp0.entryHi &&& 0xFFFFF000) = true →
      (∀ j : Fin 32, j ≠ i → j.val ≤ s.cfg.tlbLast.toNat →
        (s.tlb[j.val]'j.isLt).matchesVa (s.cp0.entryHi.extractLsb' 0 8) (s.cp0.entryHi &&& 0xFFFFF000) = false) →
      ∃ t, exec .tlbp s = .next t ∧ t.cp0.index = BitVec.ofNat 32 i.val ∧ s.OnlyIndex t) ∧
    ((∀ j : Fin 32, j.val ≤ s.cfg.tlbLast.toNat →
        (s.tlb[j.val]'j.isLt).matchesVa (s.cp0.entryHi.extractLsb' 0 8) (s.cp0.entryHi &&& 0xFFFFF000) = false) →
      ∃ t, exec .tlbp s = .next t ∧ t.cp0.index.getLsbD 31 = true ∧ s.OnlyIndex t)

/-! ### Caches and the ICEport (47, 20, 60) -/

/-- FLUSHI, FLUSHD, FLUSHID (47 R480 to R483), followed by three NOPs or seen at once (70 R633): every line of the
enabled sets of the cache named becomes Invalid; memory, the registers and the other cache are unchanged. The
maintenance modes (20 R200 to R203): while the caches are isolated a word store makes the indexed line of every enabled
set Invalid, writes its tag, or writes its data, but for I-cache set 1 while CCC.ISR1 is 1, whose data a Data Test
store leaves unchanged (20 R205); and a word load reads the tag or the data of the one enabled set. Where a
precondition does not hold the model stops (93 I31, log entry 31). That a Tag Test store sets V to 1 and WB to CCC.WB,
and that a Tag Test load gives the stored V and WB, is the spec's reading of an ambiguous source (92 D31), that Hit
compares all 22 tag bits whatever the size the model's choice (log entry 38), as is what a Tag Test load gives of a set
without a tag RAM: its wired tag, valid and clean (log entry 37). -/
def Obligations.CacheFlushes : Prop :=
  (∀ s : State, s.Inv → s.copUsable 0 = true → (s.threeNops = true ∨ s.env.choice.late = false) →
    (∃ t, exec .flushi s = .next t ∧ s.FlushFrame t ∧ t.dcache = s.dcache ∧ s.IcacheInvalid t) ∧
    (∃ t, exec .flushd s = .next t ∧ s.FlushFrame t ∧ t.icache = s.icache ∧ s.DcacheInvalid t) ∧
    (∃ t, exec .flushid s = .next t ∧ s.FlushFrame t ∧ s.IcacheInvalid t ∧ s.DcacheInvalid t)) ∧
  (∀ (s : State) (base rt : BitVec 5) (off : BitVec 16) (va : Word), va = s.reg base + off.signExtend 32 →
    va.toNat % 4 = 0 → s.Inv → s.Isolated →
    (s.isolateReady = false → exec (.sw base rt off) s = .refused .isolatePrecondition ∧
      exec (.lw base rt off) s = .refused .isolatePrecondition) ∧
    (s.isolateStop = none →
      (∃ t, exec (.sw base rt off) s = .next t ∧ s.FlushFrame t ∧ ∀ isD w : Bool,
        (s.ramOn isD w = false → t.ramSet isD w = s.ramSet isD w) ∧
        (s.ramOn isD w = true →
          (s.testMode.getLsbD 0 = true → (t.ramSet isD w).data = (s.ramSet isD w).data ∧
            TagAfter (s.ramSet isD w) (t.ramSet isD w) (lineOf (s.ramSize isD) va)
              { (s.ramSet isD w).tagAt (lineOf (s.ramSize isD) va) with valid := false, dirty := false }) ∧
          (s.testMode.getLsbD 0 = false → s.testMode.getLsbD 1 = true → (t.ramSet isD w).data = (s.ramSet isD w).data ∧
            TagAfter (s.ramSet isD w) (t.ramSet isD w) (lineOf (s.ramSize isD) va)
              { addr := va.extractLsb' 10 22, valid := true, dirty := isD && s.cp0.ccc.getLsbD 5 }) ∧
          (s.testMode.getLsbD 0 = false → s.testMode.getLsbD 1 = false →
            (t.ramSet isD w).tags = (s.ramSet isD w).tags ∧
            if (!isD && w && s.cp0.ccc.getLsbD 26) = true then t.ramSet isD w = s.ramSet isD w
            else DataAfter (s.ramSet isD w) (t.ramSet isD w) (offsetOf (s.ramSize isD) va) fun j =>
              if j < 4 then some (byteOf (s.reg rt) (if s.cfg.bigEndian then 3 - j else j)) else none))) ∧
      (∀ isD w : Bool, s.ramOn isD w = true → (∀ d x : Bool, (d, x) ≠ (isD, w) → s.ramOn d x = false) →
        s.testMode.getLsbD 0 = false →
        ∃ v : Word, s.Yields (.lw base rt off) rt v ∧
          (s.testMode.getLsbD 1 = true → ∀ g : Tag, g = (match s.ramWired isD w with
              | none => (s.ramSet isD w).tagAt (lineOf (s.ramSize isD) va)
              | some a => { addr := a, valid := true, dirty := false }) →
            v.extractLsb' 10 22 = g.addr ∧ v.getLsbD 2 = (g.addr == va.extractLsb' 10 22) ∧ v.getLsbD 1 = g.valid ∧
            v.getLsbD 0 = g.dirty) ∧
          (s.testMode.getLsbD 1 = false → ∀ j < 4, byteOf v (if s.cfg.bigEndian then 3 - j else j) =
            Sparse.get 0 (s.ramSet isD w).data (offsetOf (s.ramSize isD) va + j)))))

/-- WB (47 R484), followed by three NOPs or seen at once (70 R633), where no write fails: the valid lines of the index in
the enabled sets are clean afterwards; no other line, no disabled set, no Invalid line, no V bit, no address and no data
changes. With an empty write buffer exactly the 32 bytes of each line that was dirty are written to memory, set 0's
before set 1's, an order that is the model's choice (log entry 33); a clean line's memory is unchanged. No register, no
other latch and no TLB entry changes. -/
def Obligations.CacheWriteBack : Prop :=
  ∀ (s : State) (base : BitVec 5) (off : BitVec 16) (line : Nat), s.Inv → s.copUsable 0 = true →
    (s.threeNops = true ∨ s.env.choice.late = false) → s.env.pins.errWrite = false →
    line = lineOf s.dsize (s.reg base + off.signExtend 32) →
    ∃ t, exec (.wb base off) s = .next t ∧ s.Sequential t ∧
      t = { s with pc := t.pc, npc := t.npc, inSlot := t.inSlot, taken := t.taken, slotOfJr := t.slotOfJr,
                   tlbRecent := none, dcache := t.dcache, mem := t.mem, wbuf := t.wbuf, uart := t.uart, out := t.out } ∧
      (∀ (w : Bool) (l : Nat), (t.dcache.way w).tagAt l =
        if l = line ∧ (if w then s.dOn1 else s.dOn0) = true ∧ ((s.dcache.way w).tagAt l).valid = true
        then { (s.dcache.way w).tagAt l with dirty := false } else (s.dcache.way w).tagAt l) ∧
      (∀ w : Bool, (t.dcache.way w).data = (s.dcache.way w).data) ∧
      (∀ (dirty : Bool → Prop) (pa : Bool → Word),
        (∀ w, dirty w ↔ (if w then s.dOn1 else s.dOn0) = true ∧ ((s.dcache.way w).tagAt line).valid = true ∧
          ((s.dcache.way w).tagAt line).dirty = true) →
        (∀ w, pa w = (s.dcache.way w).lineAddress s.dsize line) →
        (∀ w, dirty w → s.touchesIceport (pa w) 32 = false) → s.wbuf = [] →
        t.wbuf = [] ∧ t.uart = s.uart ∧ t.out = s.out ∧
        ∀ a < 2 ^ 32,
          (dirty true ∧ (pa true).toNat ≤ a ∧ a < (pa true).toNat + 32 →
            Memory.read t.mem a = Sparse.get 0 s.dcache.set1.data (lineOffset line + (a - (pa true).toNat))) ∧
          (¬(dirty true ∧ (pa true).toNat ≤ a ∧ a < (pa true).toNat + 32) →
            (dirty false ∧ (pa false).toNat ≤ a ∧ a < (pa false).toNat + 32 →
              Memory.read t.mem a = Sparse.get 0 s.dcache.set0.data (lineOffset line + (a - (pa false).toNat))) ∧
            (¬(dirty false ∧ (pa false).toNat ≤ a ∧ a < (pa false).toNat + 32) →
              Memory.read t.mem a = Memory.read s.mem a)))

/-- A word store that hits the D-cache in write-back mode and a load of the same word (20 R172, R173): the line takes
the word and becomes dirty, memory and the write buffer do not change, and the load gives the word stored.

Loads of every width: a hit gives the line's bytes and changes nothing; a miss writes the victim back if it is dirty and
fills its line from memory (20 R172, R175). Stores of every width (20 R173): a hit updates the line, which becomes dirty in
write-back mode and goes to memory as well in write-through mode; a miss goes to memory alone. Fetches (20 R162, R171,
R205): a hit or the scratchpad gives the line's word; a miss fills the line of the Invalid or the least recently used
set. That set 0 answers where both sets hold the address is log entry 55. An alias stops the access (93 I29): the model's
choice (log entry 29). So does a D-cache of another size than CCC names, in states no run reaches: 93 I30 speaks of
writing CCC, the stop of the access is the model's choice (log entry 56). -/
def Obligations.CachedStoreThenLoad : Prop :=
  (∀ (s : State) (base rt rt' : BitVec 5) (off : BitVec 16) (va : Word) (w : Bool),
    va = s.reg base + off.signExtend 32 → va.toNat % 4 = 0 → s.Inv → s.CachedAccess va → s.cp0.ccc.getLsbD 5 = true →
    s.dcache.hitWay s.dOn0 s.dOn1 s.dsize va (va &&& 0x1FFFFFFF) = some w →
      ∃ t u, exec (.sw base rt off) s = .next t ∧ t.mem = s.mem ∧ t.wbuf = s.wbuf ∧ t.gpr = s.gpr ∧
        ((t.dcache.way w).tagAt (lineOf s.dsize va)).dirty = true ∧ (t.dcache.way !w) = s.dcache.way !w ∧
        exec (.lw base rt' off) t = .next u ∧ u.mem = s.mem ∧
        ∀ k, u.reg k = if k = rt' ∧ rt' ≠ 0 then s.reg rt else s.reg k) ∧
  (∀ (s : State) (base rt : BitVec 5) (off : BitVec 16) (va p : Word) (line : Nat),
    va = s.reg base + off.signExtend 32 → p = va &&& 0x1FFFFFFF → line = lineOf s.dsize va → s.Inv → s.CachedAccess va →
    (∀ w, s.dcache.hitWay s.dOn0 s.dOn1 s.dsize va p = some w →
      (∀ b : Nat → Byte, (b = fun k => Sparse.get 0 (s.dcache.way w).data (offsetOf s.dsize (va &&& 0xFFFFFFFC) + k)) →
        ∀ f ∈ loadForms s.cfg.bigEndian b (s.reg rt) va base rt off, va.toNat % f.1 = 0 → s.Yields f.2.1 rt f.2.2) ∧
      (∀ f ∈ storeForms s.cfg.bigEndian (s.reg rt) va base rt off, va.toNat % f.1 = 0 →
        (s.cp0.ccc.getLsbD 5 = true → ∃ t, exec f.2.1 s = .next t ∧ s.AccessFrame t ∧ t.gpr = s.gpr ∧ t.mem = s.mem ∧
          t.wbuf = s.wbuf ∧ t.dcache.way (!w) = s.dcache.way (!w) ∧
          TagAfter (s.dcache.way w) (t.dcache.way w) line { (s.dcache.way w).tagAt line with dirty := true } ∧
          DataAfter (s.dcache.way w) (t.dcache.way w) (offsetOf s.dsize f.2.2.1) f.2.2.2) ∧
        (s.cp0.ccc.getLsbD 5 = false → s.wbuf = [] → s.touchesIceport (wordBase p) 4 = false →
          s.env.pins.errWrite = false → ∃ t, exec f.2.1 s = .next t ∧ s.AccessFrame t ∧ t.gpr = s.gpr ∧ s.SameMemory t ∧
          t.dcache.way (!w) = s.dcache.way (!w) ∧ (t.dcache.way w).tags = (s.dcache.way w).tags ∧
          DataAfter (s.dcache.way w) (t.dcache.way w) (offsetOf s.dsize f.2.2.1) f.2.2.2 ∧
          s.MemoryAfter t (f.2.2.1 &&& 0x1FFFFFFF) f.2.2.2))) ∧
    (s.dcache.hitWay s.dOn0 s.dOn1 s.dsize va p = none → s.wbuf = [] → s.env.pins.errWrite = false →
      (∀ f ∈ storeForms s.cfg.bigEndian (s.reg rt) va base rt off, va.toNat % f.1 = 0 →
        s.touchesIceport (wordBase p) 4 = false → ∃ t, exec f.2.1 s = .next t ∧ s.AccessFrame t ∧ t.gpr = s.gpr ∧
          s.SameMemory t ∧ t.dcache = s.dcache ∧ s.MemoryAfter t (f.2.2.1 &&& 0x1FFFFFFF) f.2.2.2) ∧
      (s.BusReads → s.touchesIceport (blockBase p) 32 = false → ∀ (w : Bool) (g : Tag) (q : Word),
        w = s.dVictim → g = (s.dcache.way w).tagAt line → q = (s.dcache.way w).lineAddress s.dsize line →
        (g.valid = true → g.dirty = true → s.touchesIceport q 32 = false) →
        ∃ m, (∀ a < 2 ^ 32, Memory.read m a =
            if (g.valid && g.dirty) = true ∧ q.toNat ≤ a ∧ a < q.toNat + 32
            then Sparse.get 0 (s.dcache.way w).data (32 * line + (a - q.toNat)) else Memory.read s.mem a) ∧
          ∀ b : Nat → Byte, (b = fun k => Memory.read m ((wordBase p).toNat + k)) →
            ∀ f ∈ loadForms s.cfg.bigEndian b (s.reg rt) va base rt off, va.toNat % f.1 = 0 →
              ∃ t, exec f.2.1 s = .next t ∧ s.AccessFrame t ∧ s.GprsAfter t rt f.2.2 ∧ t.mem = m ∧ t.wbuf = [] ∧
                t.dcache.way (!w) = s.dcache.way (!w) ∧ FilledFrom (s.dcache.way w) (t.dcache.way w) line p m))) ∧
  (∀ (s : State) (base rt : BitVec 5) (off : BitVec 16) (va pa : Word) (attr : Attr), va = s.reg base + off.signExtend 32 →
    (∀ store, s.dataAddress va 4 store = .ok (pa, attr) s) → attr ≠ .uncached → s.dCaching = true →
    s.env.pins.oca = none → Ccc.isc s.testMode = false → s.dScratch va (physOfStart pa va) = none →
    (s.dSizeBuilt = false → ∀ i ∈ [Instr.lw base rt off, .sw base rt off], exec i s = .refused .cacheSizeMismatch) ∧
    (s.dSizeBuilt = true → aliased s.dsize va pa = true →
      ∀ i ∈ [Instr.lw base rt off, .sw base rt off], exec i s = .refused .cacheAlias)) ∧
  (∀ (s : State) (va p : Word) (line : Nat) (c : CacheSet) (b : Nat → Byte) (v : Word), s.Inv →
    p = va &&& 0x1FFFFFFF → line = lineOf s.isize va →
    v = (if s.cfg.bigEndian then b 0 ++ b 1 ++ b 2 ++ b 3 else b 3 ++ b 2 ++ b 1 ++ b 0) →
    ((b = fun k => Sparse.get 0 c.data (offsetOf s.isize va + k)) →
      (∀ w, s.CachedFetch va → s.icache.hitWay s.iOn0 s.iOn1 s.isize va p = some w → c = s.icache.way w →
        ∃ t, s.fetchWord va = .ok v t ∧ t = { s with imru := t.imru } ∧
          ∀ l, Sparse.get false t.imru l = if l = line then w else Sparse.get false s.imru l) ∧
      (s.userMode = false → va.extractLsb' 30 2 = 0b10#2 → va.toNat % 4 = 0 → s.iScratch va p = true →
        s.iSizeBuilt = true → c = s.icache.set1 → s.fetchWord va = .ok v s)) ∧
    ((b = fun k => Memory.read s.mem (p.toNat + k)) → s.CachedFetch va →
      s.icache.hitWay s.iOn0 s.iOn1 s.isize va p = none → s.env.pins.hang = false → s.env.pins.errFetch = false →
      s.touchesIceport (blockBase p) 32 = false →
        ∃ (w : Bool) (t : State), s.fetchWord va = .ok v t ∧ t = { s with icache := t.icache, imru := t.imru } ∧
          (if w then s.iOn1 else s.iOn0) = true ∧
          (s.iOn0 = true → s.iOn1 = true →
            ((s.icache.way w).tagAt line).valid = true → ((s.icache.way !w).tagAt line).valid = true ∧
              Sparse.get false s.imru line = !w) ∧
          t.icache.way (!w) = s.icache.way (!w) ∧ FilledFrom (s.icache.way w) (t.icache.way w) line p s.mem ∧
          ∀ l, Sparse.get false t.imru l = if l = line then w else Sparse.get false s.imru l))

/-- The ICEport's registers (60 R570): the receive flags and data, the transmit flag and data, the interrupt enable, what
a byte received does, and its flags while a reset input is asserted. -/
def Obligations.IceportRegisters : Prop :=
  ∀ (s : State) (v : Word) (u : Uart) (x : Byte),
    (s.iceportRead 0 = ((0 : BitVec 30) ++ BitVec.ofBool s.uart.rxOverrun ++ BitVec.ofBool s.uart.rxReady,
      { s with uart := { s.uart with rxOverrun := false } })) ∧
    (s.uart.rxReady = true → s.iceportRead 1 = ((0 : BitVec 24) ++ s.uart.rxData,
      { s with uart := { s.uart with rxReady := false } })) ∧
    (s.iceportRead 2 = ((0 : BitVec 31) ++ BitVec.ofBool s.uart.txReady, s)) ∧
    (s.iceportWrite 0 v = { s with uart := { s.uart with rxIntEnable := v.getLsbD 0 } }) ∧
    (s.uart.txReady = true → s.iceportWrite 3 v = { s with
      uart := { s.uart with txData := v.extractLsb' 0 8, txReady := false }
      out := { s.out with uartTx := some (v.extractLsb' 0 8) } }) ∧
    (u.rxReady = false → u.receive x = { u with rxData := x, rxReady := true }) ∧
    (u.rxReady = true → u.receive x = { u with rxOverrun := true }) ∧
    (s.env.pins.cold = true ∨ s.env.pins.warm = true → ∀ t, t = s.runUart →
      t.uart.rxReady = false ∧ t.uart.rxOverrun = false ∧ t.uart.rxIntEnable = false ∧ t.uart.txReady = true ∧
        t = { s with uart := t.uart })

end Statements
end

