-- ==== Sys2Proof/Laws/State.lean ====
section
/-! SUPPORT. One lemma per field per update of the state, so that no later proof unfolds a record update. -/

namespace Sys2Proof.Machine

-- One worker for the file: a thread for each of several hundred one-line proofs would exhaust the memory limit.
set_option Elab.async false

variable (s : State)

/-! ### "Anything else" (43 R370) -/

@[simp] theorem State.advance_cfg : (s.advance).cfg = s.cfg := rfl
@[simp] theorem State.advance_gpr : (s.advance).gpr = s.gpr := rfl
@[simp] theorem State.advance_hi : (s.advance).hi = s.hi := rfl
@[simp] theorem State.advance_lo : (s.advance).lo = s.lo := rfl
@[simp] theorem State.advance_pc : (s.advance).pc = s.npc := rfl
@[simp] theorem State.advance_npc : (s.advance).npc = s.npc + 4 := rfl
@[simp] theorem State.advance_inSlot : (s.advance).inSlot = false := rfl
@[simp] theorem State.advance_taken : (s.advance).taken = false := rfl
@[simp] theorem State.advance_slotOfJr : (s.advance).slotOfJr = false := rfl
@[simp] theorem State.advance_llbit : (s.advance).llbit = s.llbit := rfl
@[simp] theorem State.advance_cp0 : (s.advance).cp0 = s.cp0 := rfl
@[simp] theorem State.advance_tlb : (s.advance).tlb = s.tlb := rfl
@[simp] theorem State.advance_itlb : (s.advance).itlb = s.itlb := rfl
@[simp] theorem State.advance_icache : (s.advance).icache = s.icache := rfl
@[simp] theorem State.advance_imru : (s.advance).imru = s.imru := rfl
@[simp] theorem State.advance_dcache : (s.advance).dcache = s.dcache := rfl
@[simp] theorem State.advance_wbuf : (s.advance).wbuf = s.wbuf := rfl
@[simp] theorem State.advance_busLock : (s.advance).busLock = s.busLock := rfl
@[simp] theorem State.advance_nmiPending : (s.advance).nmiPending = s.nmiPending := rfl
@[simp] theorem State.advance_nmiLevel : (s.advance).nmiLevel = s.nmiLevel := rfl
@[simp] theorem State.advance_coldLevel : (s.advance).coldLevel = s.coldLevel := rfl
@[simp] theorem State.advance_warmLevel : (s.advance).warmLevel = s.warmLevel := rfl
@[simp] theorem State.advance_busErrPending : (s.advance).busErrPending = s.busErrPending := rfl
@[simp] theorem State.advance_timerPending : (s.advance).timerPending = s.timerPending := rfl
@[simp] theorem State.advance_waiting : (s.advance).waiting = s.waiting := rfl
@[simp] theorem State.advance_waitSlip : (s.advance).waitSlip = s.waitSlip := rfl
@[simp] theorem State.advance_uart : (s.advance).uart = s.uart := rfl
@[simp] theorem State.advance_mem : (s.advance).mem = s.mem := rfl
@[simp] theorem State.advance_env : (s.advance).env = s.env := rfl
@[simp] theorem State.advance_script : (s.advance).script = s.script := rfl
@[simp] theorem State.advance_out : (s.advance).out = s.out := rfl
@[simp] theorem State.advance_recent : (s.advance).recent = s.recent := rfl
@[simp] theorem State.advance_cacheDue : (s.advance).cacheDue = s.cacheDue := rfl
@[simp] theorem State.advance_tlbRecent : (s.advance).tlbRecent = none := rfl
@[simp] theorem State.advance_trace : (s.advance).trace = s.trace := rfl
@[simp] theorem State.advance_tick : (s.advance).tick = s.tick := rfl

/-! ### A taken transfer (43 R370) -/

@[simp] theorem State.transfer_cfg (target : Word) (j : Bool) : (s.transfer target j).cfg = s.cfg := rfl
@[simp] theorem State.transfer_gpr (target : Word) (j : Bool) : (s.transfer target j).gpr = s.gpr := rfl
@[simp] theorem State.transfer_hi (target : Word) (j : Bool) : (s.transfer target j).hi = s.hi := rfl
@[simp] theorem State.transfer_lo (target : Word) (j : Bool) : (s.transfer target j).lo = s.lo := rfl
@[simp] theorem State.transfer_pc (target : Word) (j : Bool) : (s.transfer target j).pc = s.npc := rfl
@[simp] theorem State.transfer_npc (target : Word) (j : Bool) : (s.transfer target j).npc = target := rfl
@[simp] theorem State.transfer_inSlot (target : Word) (j : Bool) : (s.transfer target j).inSlot = true := rfl
@[simp] theorem State.transfer_taken (target : Word) (j : Bool) : (s.transfer target j).taken = true := rfl
@[simp] theorem State.transfer_slotOfJr (target : Word) (j : Bool) : (s.transfer target j).slotOfJr = j := rfl
@[simp] theorem State.transfer_llbit (target : Word) (j : Bool) : (s.transfer target j).llbit = s.llbit := rfl
@[simp] theorem State.transfer_cp0 (target : Word) (j : Bool) : (s.transfer target j).cp0 = s.cp0 := rfl
@[simp] theorem State.transfer_tlb (target : Word) (j : Bool) : (s.transfer target j).tlb = s.tlb := rfl
@[simp] theorem State.transfer_itlb (target : Word) (j : Bool) : (s.transfer target j).itlb = s.itlb := rfl
@[simp] theorem State.transfer_icache (target : Word) (j : Bool) : (s.transfer target j).icache = s.icache := rfl
@[simp] theorem State.transfer_imru (target : Word) (j : Bool) : (s.transfer target j).imru = s.imru := rfl
@[simp] theorem State.transfer_dcache (target : Word) (j : Bool) : (s.transfer target j).dcache = s.dcache := rfl
@[simp] theorem State.transfer_wbuf (target : Word) (j : Bool) : (s.transfer target j).wbuf = s.wbuf := rfl
@[simp] theorem State.transfer_busLock (target : Word) (j : Bool) : (s.transfer target j).busLock = s.busLock := rfl
@[simp] theorem State.transfer_nmiPending (target : Word) (j : Bool) : (s.transfer target j).nmiPending = s.nmiPending := rfl
@[simp] theorem State.transfer_nmiLevel (target : Word) (j : Bool) : (s.transfer target j).nmiLevel = s.nmiLevel := rfl
@[simp] theorem State.transfer_coldLevel (target : Word) (j : Bool) : (s.transfer target j).coldLevel = s.coldLevel := rfl
@[simp] theorem State.transfer_warmLevel (target : Word) (j : Bool) : (s.transfer target j).warmLevel = s.warmLevel := rfl
@[simp] theorem State.transfer_busErrPending (target : Word) (j : Bool) : (s.transfer target j).busErrPending = s.busErrPending := rfl
@[simp] theorem State.transfer_timerPending (target : Word) (j : Bool) : (s.transfer target j).timerPending = s.timerPending := rfl
@[simp] theorem State.transfer_waiting (target : Word) (j : Bool) : (s.transfer target j).waiting = s.waiting := rfl
@[simp] theorem State.transfer_waitSlip (target : Word) (j : Bool) : (s.transfer target j).waitSlip = s.waitSlip := rfl
@[simp] theorem State.transfer_uart (target : Word) (j : Bool) : (s.transfer target j).uart = s.uart := rfl
@[simp] theorem State.transfer_mem (target : Word) (j : Bool) : (s.transfer target j).mem = s.mem := rfl
@[simp] theorem State.transfer_env (target : Word) (j : Bool) : (s.transfer target j).env = s.env := rfl
@[simp] theorem State.transfer_script (target : Word) (j : Bool) : (s.transfer target j).script = s.script := rfl
@[simp] theorem State.transfer_out (target : Word) (j : Bool) : (s.transfer target j).out = s.out := rfl
@[simp] theorem State.transfer_recent (target : Word) (j : Bool) : (s.transfer target j).recent = s.recent := rfl
@[simp] theorem State.transfer_cacheDue (target : Word) (j : Bool) : (s.transfer target j).cacheDue = s.cacheDue := rfl
@[simp] theorem State.transfer_tlbRecent (target : Word) (j : Bool) : (s.transfer target j).tlbRecent = none := rfl
@[simp] theorem State.transfer_trace (target : Word) (j : Bool) : (s.transfer target j).trace = s.trace := rfl
@[simp] theorem State.transfer_tick (target : Word) (j : Bool) : (s.transfer target j).tick = s.tick := rfl

/-! ### A branch not taken (43 R370) -/

@[simp] theorem State.fallThrough_cfg : (s.fallThrough).cfg = s.cfg := rfl
@[simp] theorem State.fallThrough_gpr : (s.fallThrough).gpr = s.gpr := rfl
@[simp] theorem State.fallThrough_hi : (s.fallThrough).hi = s.hi := rfl
@[simp] theorem State.fallThrough_lo : (s.fallThrough).lo = s.lo := rfl
@[simp] theorem State.fallThrough_pc : (s.fallThrough).pc = s.npc := rfl
@[simp] theorem State.fallThrough_npc : (s.fallThrough).npc = s.npc + 4 := rfl
@[simp] theorem State.fallThrough_inSlot : (s.fallThrough).inSlot = true := rfl
@[simp] theorem State.fallThrough_taken : (s.fallThrough).taken = false := rfl
@[simp] theorem State.fallThrough_slotOfJr : (s.fallThrough).slotOfJr = false := rfl
@[simp] theorem State.fallThrough_llbit : (s.fallThrough).llbit = s.llbit := rfl
@[simp] theorem State.fallThrough_cp0 : (s.fallThrough).cp0 = s.cp0 := rfl
@[simp] theorem State.fallThrough_tlb : (s.fallThrough).tlb = s.tlb := rfl
@[simp] theorem State.fallThrough_itlb : (s.fallThrough).itlb = s.itlb := rfl
@[simp] theorem State.fallThrough_icache : (s.fallThrough).icache = s.icache := rfl
@[simp] theorem State.fallThrough_imru : (s.fallThrough).imru = s.imru := rfl
@[simp] theorem State.fallThrough_dcache : (s.fallThrough).dcache = s.dcache := rfl
@[simp] theorem State.fallThrough_wbuf : (s.fallThrough).wbuf = s.wbuf := rfl
@[simp] theorem State.fallThrough_busLock : (s.fallThrough).busLock = s.busLock := rfl
@[simp] theorem State.fallThrough_nmiPending : (s.fallThrough).nmiPending = s.nmiPending := rfl
@[simp] theorem State.fallThrough_nmiLevel : (s.fallThrough).nmiLevel = s.nmiLevel := rfl
@[simp] theorem State.fallThrough_coldLevel : (s.fallThrough).coldLevel = s.coldLevel := rfl
@[simp] theorem State.fallThrough_warmLevel : (s.fallThrough).warmLevel = s.warmLevel := rfl
@[simp] theorem State.fallThrough_busErrPending : (s.fallThrough).busErrPending = s.busErrPending := rfl
@[simp] theorem State.fallThrough_timerPending : (s.fallThrough).timerPending = s.timerPending := rfl
@[simp] theorem State.fallThrough_waiting : (s.fallThrough).waiting = s.waiting := rfl
@[simp] theorem State.fallThrough_waitSlip : (s.fallThrough).waitSlip = s.waitSlip := rfl
@[simp] theorem State.fallThrough_uart : (s.fallThrough).uart = s.uart := rfl
@[simp] theorem State.fallThrough_mem : (s.fallThrough).mem = s.mem := rfl
@[simp] theorem State.fallThrough_env : (s.fallThrough).env = s.env := rfl
@[simp] theorem State.fallThrough_script : (s.fallThrough).script = s.script := rfl
@[simp] theorem State.fallThrough_out : (s.fallThrough).out = s.out := rfl
@[simp] theorem State.fallThrough_recent : (s.fallThrough).recent = s.recent := rfl
@[simp] theorem State.fallThrough_cacheDue : (s.fallThrough).cacheDue = s.cacheDue := rfl
@[simp] theorem State.fallThrough_tlbRecent : (s.fallThrough).tlbRecent = none := rfl
@[simp] theorem State.fallThrough_trace : (s.fallThrough).trace = s.trace := rfl
@[simp] theorem State.fallThrough_tick : (s.fallThrough).tick = s.tick := rfl

/-! ### A Branch Likely not taken (43 R373) -/

@[simp] theorem State.annul_cfg : (s.annul).cfg = s.cfg := rfl
@[simp] theorem State.annul_gpr : (s.annul).gpr = s.gpr := rfl
@[simp] theorem State.annul_hi : (s.annul).hi = s.hi := rfl
@[simp] theorem State.annul_lo : (s.annul).lo = s.lo := rfl
@[simp] theorem State.annul_pc : (s.annul).pc = s.npc + 4 := rfl
@[simp] theorem State.annul_npc : (s.annul).npc = s.npc + 8 := rfl
@[simp] theorem State.annul_inSlot : (s.annul).inSlot = false := rfl
@[simp] theorem State.annul_taken : (s.annul).taken = false := rfl
@[simp] theorem State.annul_slotOfJr : (s.annul).slotOfJr = false := rfl
@[simp] theorem State.annul_llbit : (s.annul).llbit = s.llbit := rfl
@[simp] theorem State.annul_cp0 : (s.annul).cp0 = s.cp0 := rfl
@[simp] theorem State.annul_tlb : (s.annul).tlb = s.tlb := rfl
@[simp] theorem State.annul_itlb : (s.annul).itlb = s.itlb := rfl
@[simp] theorem State.annul_icache : (s.annul).icache = s.icache := rfl
@[simp] theorem State.annul_imru : (s.annul).imru = s.imru := rfl
@[simp] theorem State.annul_dcache : (s.annul).dcache = s.dcache := rfl
@[simp] theorem State.annul_wbuf : (s.annul).wbuf = s.wbuf := rfl
@[simp] theorem State.annul_busLock : (s.annul).busLock = s.busLock := rfl
@[simp] theorem State.annul_nmiPending : (s.annul).nmiPending = s.nmiPending := rfl
@[simp] theorem State.annul_nmiLevel : (s.annul).nmiLevel = s.nmiLevel := rfl
@[simp] theorem State.annul_coldLevel : (s.annul).coldLevel = s.coldLevel := rfl
@[simp] theorem State.annul_warmLevel : (s.annul).warmLevel = s.warmLevel := rfl
@[simp] theorem State.annul_busErrPending : (s.annul).busErrPending = s.busErrPending := rfl
@[simp] theorem State.annul_timerPending : (s.annul).timerPending = s.timerPending := rfl
@[simp] theorem State.annul_waiting : (s.annul).waiting = s.waiting := rfl
@[simp] theorem State.annul_waitSlip : (s.annul).waitSlip = s.waitSlip := rfl
@[simp] theorem State.annul_uart : (s.annul).uart = s.uart := rfl
@[simp] theorem State.annul_mem : (s.annul).mem = s.mem := rfl
@[simp] theorem State.annul_env : (s.annul).env = s.env := rfl
@[simp] theorem State.annul_script : (s.annul).script = s.script := rfl
@[simp] theorem State.annul_out : (s.annul).out = s.out := rfl
@[simp] theorem State.annul_recent : (s.annul).recent = s.recent := rfl
@[simp] theorem State.annul_cacheDue : (s.annul).cacheDue = s.cacheDue := rfl
@[simp] theorem State.annul_tlbRecent : (s.annul).tlbRecent = none := rfl
@[simp] theorem State.annul_trace : (s.annul).trace = s.trace := rfl
@[simp] theorem State.annul_tick : (s.annul).tick = s.tick := rfl

/-! ### Control continues elsewhere -/

@[simp] theorem State.goTo_cfg (target : Word) : (s.goTo target).cfg = s.cfg := rfl
@[simp] theorem State.goTo_gpr (target : Word) : (s.goTo target).gpr = s.gpr := rfl
@[simp] theorem State.goTo_hi (target : Word) : (s.goTo target).hi = s.hi := rfl
@[simp] theorem State.goTo_lo (target : Word) : (s.goTo target).lo = s.lo := rfl
@[simp] theorem State.goTo_pc (target : Word) : (s.goTo target).pc = target := rfl
@[simp] theorem State.goTo_npc (target : Word) : (s.goTo target).npc = target + 4 := rfl
@[simp] theorem State.goTo_inSlot (target : Word) : (s.goTo target).inSlot = false := rfl
@[simp] theorem State.goTo_taken (target : Word) : (s.goTo target).taken = false := rfl
@[simp] theorem State.goTo_slotOfJr (target : Word) : (s.goTo target).slotOfJr = false := rfl
@[simp] theorem State.goTo_llbit (target : Word) : (s.goTo target).llbit = s.llbit := rfl
@[simp] theorem State.goTo_cp0 (target : Word) : (s.goTo target).cp0 = s.cp0 := rfl
@[simp] theorem State.goTo_tlb (target : Word) : (s.goTo target).tlb = s.tlb := rfl
@[simp] theorem State.goTo_itlb (target : Word) : (s.goTo target).itlb = s.itlb := rfl
@[simp] theorem State.goTo_icache (target : Word) : (s.goTo target).icache = s.icache := rfl
@[simp] theorem State.goTo_imru (target : Word) : (s.goTo target).imru = s.imru := rfl
@[simp] theorem State.goTo_dcache (target : Word) : (s.goTo target).dcache = s.dcache := rfl
@[simp] theorem State.goTo_wbuf (target : Word) : (s.goTo target).wbuf = s.wbuf := rfl
@[simp] theorem State.goTo_busLock (target : Word) : (s.goTo target).busLock = s.busLock := rfl
@[simp] theorem State.goTo_nmiPending (target : Word) : (s.goTo target).nmiPending = s.nmiPending := rfl
@[simp] theorem State.goTo_nmiLevel (target : Word) : (s.goTo target).nmiLevel = s.nmiLevel := rfl
@[simp] theorem State.goTo_coldLevel (target : Word) : (s.goTo target).coldLevel = s.coldLevel := rfl
@[simp] theorem State.goTo_warmLevel (target : Word) : (s.goTo target).warmLevel = s.warmLevel := rfl
@[simp] theorem State.goTo_busErrPending (target : Word) : (s.goTo target).busErrPending = s.busErrPending := rfl
@[simp] theorem State.goTo_timerPending (target : Word) : (s.goTo target).timerPending = s.timerPending := rfl
@[simp] theorem State.goTo_waiting (target : Word) : (s.goTo target).waiting = false := rfl
@[simp] theorem State.goTo_waitSlip (target : Word) : (s.goTo target).waitSlip = 0 := rfl
@[simp] theorem State.goTo_uart (target : Word) : (s.goTo target).uart = s.uart := rfl
@[simp] theorem State.goTo_mem (target : Word) : (s.goTo target).mem = s.mem := rfl
@[simp] theorem State.goTo_env (target : Word) : (s.goTo target).env = s.env := rfl
@[simp] theorem State.goTo_script (target : Word) : (s.goTo target).script = s.script := rfl
@[simp] theorem State.goTo_out (target : Word) : (s.goTo target).out = s.out := rfl
@[simp] theorem State.goTo_recent (target : Word) : (s.goTo target).recent = s.recent := rfl
@[simp] theorem State.goTo_cacheDue (target : Word) : (s.goTo target).cacheDue = s.cacheDue := rfl
@[simp] theorem State.goTo_tlbRecent (target : Word) : (s.goTo target).tlbRecent = none := rfl
@[simp] theorem State.goTo_trace (target : Word) : (s.goTo target).trace = .idle := rfl
@[simp] theorem State.goTo_tick (target : Word) : (s.goTo target).tick = s.tick := rfl

/-! ### HI and LO (10 R23, R24) -/

@[simp] theorem State.setHiLo_cfg (hi lo : Word) : (s.setHiLo hi lo).cfg = s.cfg := rfl
@[simp] theorem State.setHiLo_gpr (hi lo : Word) : (s.setHiLo hi lo).gpr = s.gpr := rfl
@[simp] theorem State.setHiLo_hi (hi lo : Word) : (s.setHiLo hi lo).hi = hi := rfl
@[simp] theorem State.setHiLo_lo (hi lo : Word) : (s.setHiLo hi lo).lo = lo := rfl
@[simp] theorem State.setHiLo_pc (hi lo : Word) : (s.setHiLo hi lo).pc = s.pc := rfl
@[simp] theorem State.setHiLo_npc (hi lo : Word) : (s.setHiLo hi lo).npc = s.npc := rfl
@[simp] theorem State.setHiLo_inSlot (hi lo : Word) : (s.setHiLo hi lo).inSlot = s.inSlot := rfl
@[simp] theorem State.setHiLo_taken (hi lo : Word) : (s.setHiLo hi lo).taken = s.taken := rfl
@[simp] theorem State.setHiLo_slotOfJr (hi lo : Word) : (s.setHiLo hi lo).slotOfJr = s.slotOfJr := rfl
@[simp] theorem State.setHiLo_llbit (hi lo : Word) : (s.setHiLo hi lo).llbit = s.llbit := rfl
@[simp] theorem State.setHiLo_cp0 (hi lo : Word) : (s.setHiLo hi lo).cp0 = s.cp0 := rfl
@[simp] theorem State.setHiLo_tlb (hi lo : Word) : (s.setHiLo hi lo).tlb = s.tlb := rfl
@[simp] theorem State.setHiLo_itlb (hi lo : Word) : (s.setHiLo hi lo).itlb = s.itlb := rfl
@[simp] theorem State.setHiLo_icache (hi lo : Word) : (s.setHiLo hi lo).icache = s.icache := rfl
@[simp] theorem State.setHiLo_imru (hi lo : Word) : (s.setHiLo hi lo).imru = s.imru := rfl
@[simp] theorem State.setHiLo_dcache (hi lo : Word) : (s.setHiLo hi lo).dcache = s.dcache := rfl
@[simp] theorem State.setHiLo_wbuf (hi lo : Word) : (s.setHiLo hi lo).wbuf = s.wbuf := rfl
@[simp] theorem State.setHiLo_busLock (hi lo : Word) : (s.setHiLo hi lo).busLock = s.busLock := rfl
@[simp] theorem State.setHiLo_nmiPending (hi lo : Word) : (s.setHiLo hi lo).nmiPending = s.nmiPending := rfl
@[simp] theorem State.setHiLo_nmiLevel (hi lo : Word) : (s.setHiLo hi lo).nmiLevel = s.nmiLevel := rfl
@[simp] theorem State.setHiLo_coldLevel (hi lo : Word) : (s.setHiLo hi lo).coldLevel = s.coldLevel := rfl
@[simp] theorem State.setHiLo_warmLevel (hi lo : Word) : (s.setHiLo hi lo).warmLevel = s.warmLevel := rfl
@[simp] theorem State.setHiLo_busErrPending (hi lo : Word) : (s.setHiLo hi lo).busErrPending = s.busErrPending := rfl
@[simp] theorem State.setHiLo_timerPending (hi lo : Word) : (s.setHiLo hi lo).timerPending = s.timerPending := rfl
@[simp] theorem State.setHiLo_waiting (hi lo : Word) : (s.setHiLo hi lo).waiting = s.waiting := rfl
@[simp] theorem State.setHiLo_waitSlip (hi lo : Word) : (s.setHiLo hi lo).waitSlip = s.waitSlip := rfl
@[simp] theorem State.setHiLo_uart (hi lo : Word) : (s.setHiLo hi lo).uart = s.uart := rfl
@[simp] theorem State.setHiLo_mem (hi lo : Word) : (s.setHiLo hi lo).mem = s.mem := rfl
@[simp] theorem State.setHiLo_env (hi lo : Word) : (s.setHiLo hi lo).env = s.env := rfl
@[simp] theorem State.setHiLo_script (hi lo : Word) : (s.setHiLo hi lo).script = s.script := rfl
@[simp] theorem State.setHiLo_out (hi lo : Word) : (s.setHiLo hi lo).out = s.out := rfl
@[simp] theorem State.setHiLo_recent (hi lo : Word) : (s.setHiLo hi lo).recent = s.recent := rfl
@[simp] theorem State.setHiLo_cacheDue (hi lo : Word) : (s.setHiLo hi lo).cacheDue = s.cacheDue := rfl
@[simp] theorem State.setHiLo_tlbRecent (hi lo : Word) : (s.setHiLo hi lo).tlbRecent = s.tlbRecent := rfl
@[simp] theorem State.setHiLo_trace (hi lo : Word) : (s.setHiLo hi lo).trace = s.trace := rfl
@[simp] theorem State.setHiLo_tick (hi lo : Word) : (s.setHiLo hi lo).tick = s.tick := rfl

/-! ### DCS status bits (10 R40) -/

@[simp] theorem State.setDcs_cfg (bits : Word) : (s.setDcs bits).cfg = s.cfg := rfl
@[simp] theorem State.setDcs_gpr (bits : Word) : (s.setDcs bits).gpr = s.gpr := rfl
@[simp] theorem State.setDcs_hi (bits : Word) : (s.setDcs bits).hi = s.hi := rfl
@[simp] theorem State.setDcs_lo (bits : Word) : (s.setDcs bits).lo = s.lo := rfl
@[simp] theorem State.setDcs_pc (bits : Word) : (s.setDcs bits).pc = s.pc := rfl
@[simp] theorem State.setDcs_npc (bits : Word) : (s.setDcs bits).npc = s.npc := rfl
@[simp] theorem State.setDcs_inSlot (bits : Word) : (s.setDcs bits).inSlot = s.inSlot := rfl
@[simp] theorem State.setDcs_taken (bits : Word) : (s.setDcs bits).taken = s.taken := rfl
@[simp] theorem State.setDcs_slotOfJr (bits : Word) : (s.setDcs bits).slotOfJr = s.slotOfJr := rfl
@[simp] theorem State.setDcs_llbit (bits : Word) : (s.setDcs bits).llbit = s.llbit := rfl
@[simp] theorem State.setDcs_cp0 (bits : Word) : (s.setDcs bits).cp0 = { s.cp0 with dcs := s.cp0.dcs ||| bits } := rfl
@[simp] theorem State.setDcs_tlb (bits : Word) : (s.setDcs bits).tlb = s.tlb := rfl
@[simp] theorem State.setDcs_itlb (bits : Word) : (s.setDcs bits).itlb = s.itlb := rfl
@[simp] theorem State.setDcs_icache (bits : Word) : (s.setDcs bits).icache = s.icache := rfl
@[simp] theorem State.setDcs_imru (bits : Word) : (s.setDcs bits).imru = s.imru := rfl
@[simp] theorem State.setDcs_dcache (bits : Word) : (s.setDcs bits).dcache = s.dcache := rfl
@[simp] theorem State.setDcs_wbuf (bits : Word) : (s.setDcs bits).wbuf = s.wbuf := rfl
@[simp] theorem State.setDcs_busLock (bits : Word) : (s.setDcs bits).busLock = s.busLock := rfl
@[simp] theorem State.setDcs_nmiPending (bits : Word) : (s.setDcs bits).nmiPending = s.nmiPending := rfl
@[simp] theorem State.setDcs_nmiLevel (bits : Word) : (s.setDcs bits).nmiLevel = s.nmiLevel := rfl
@[simp] theorem State.setDcs_coldLevel (bits : Word) : (s.setDcs bits).coldLevel = s.coldLevel := rfl
@[simp] theorem State.setDcs_warmLevel (bits : Word) : (s.setDcs bits).warmLevel = s.warmLevel := rfl
@[simp] theorem State.setDcs_busErrPending (bits : Word) : (s.setDcs bits).busErrPending = s.busErrPending := rfl
@[simp] theorem State.setDcs_timerPending (bits : Word) : (s.setDcs bits).timerPending = s.timerPending := rfl
@[simp] theorem State.setDcs_waiting (bits : Word) : (s.setDcs bits).waiting = s.waiting := rfl
@[simp] theorem State.setDcs_waitSlip (bits : Word) : (s.setDcs bits).waitSlip = s.waitSlip := rfl
@[simp] theorem State.setDcs_uart (bits : Word) : (s.setDcs bits).uart = s.uart := rfl
@[simp] theorem State.setDcs_mem (bits : Word) : (s.setDcs bits).mem = s.mem := rfl
@[simp] theorem State.setDcs_env (bits : Word) : (s.setDcs bits).env = s.env := rfl
@[simp] theorem State.setDcs_script (bits : Word) : (s.setDcs bits).script = s.script := rfl
@[simp] theorem State.setDcs_out (bits : Word) : (s.setDcs bits).out = s.out := rfl
@[simp] theorem State.setDcs_recent (bits : Word) : (s.setDcs bits).recent = s.recent := rfl
@[simp] theorem State.setDcs_cacheDue (bits : Word) : (s.setDcs bits).cacheDue = s.cacheDue := rfl
@[simp] theorem State.setDcs_tlbRecent (bits : Word) : (s.setDcs bits).tlbRecent = s.tlbRecent := rfl
@[simp] theorem State.setDcs_trace (bits : Word) : (s.setDcs bits).trace = s.trace := rfl
@[simp] theorem State.setDcs_tick (bits : Word) : (s.setDcs bits).tick = s.tick := rfl

/-! ### Index (46 R466) -/

@[simp] theorem State.setIndex_cfg (v : Word) : (s.setIndex v).cfg = s.cfg := rfl
@[simp] theorem State.setIndex_gpr (v : Word) : (s.setIndex v).gpr = s.gpr := rfl
@[simp] theorem State.setIndex_hi (v : Word) : (s.setIndex v).hi = s.hi := rfl
@[simp] theorem State.setIndex_lo (v : Word) : (s.setIndex v).lo = s.lo := rfl
@[simp] theorem State.setIndex_pc (v : Word) : (s.setIndex v).pc = s.pc := rfl
@[simp] theorem State.setIndex_npc (v : Word) : (s.setIndex v).npc = s.npc := rfl
@[simp] theorem State.setIndex_inSlot (v : Word) : (s.setIndex v).inSlot = s.inSlot := rfl
@[simp] theorem State.setIndex_taken (v : Word) : (s.setIndex v).taken = s.taken := rfl
@[simp] theorem State.setIndex_slotOfJr (v : Word) : (s.setIndex v).slotOfJr = s.slotOfJr := rfl
@[simp] theorem State.setIndex_llbit (v : Word) : (s.setIndex v).llbit = s.llbit := rfl
@[simp] theorem State.setIndex_cp0 (v : Word) : (s.setIndex v).cp0 = { s.cp0 with index := v } := rfl
@[simp] theorem State.setIndex_tlb (v : Word) : (s.setIndex v).tlb = s.tlb := rfl
@[simp] theorem State.setIndex_itlb (v : Word) : (s.setIndex v).itlb = s.itlb := rfl
@[simp] theorem State.setIndex_icache (v : Word) : (s.setIndex v).icache = s.icache := rfl
@[simp] theorem State.setIndex_imru (v : Word) : (s.setIndex v).imru = s.imru := rfl
@[simp] theorem State.setIndex_dcache (v : Word) : (s.setIndex v).dcache = s.dcache := rfl
@[simp] theorem State.setIndex_wbuf (v : Word) : (s.setIndex v).wbuf = s.wbuf := rfl
@[simp] theorem State.setIndex_busLock (v : Word) : (s.setIndex v).busLock = s.busLock := rfl
@[simp] theorem State.setIndex_nmiPending (v : Word) : (s.setIndex v).nmiPending = s.nmiPending := rfl
@[simp] theorem State.setIndex_nmiLevel (v : Word) : (s.setIndex v).nmiLevel = s.nmiLevel := rfl
@[simp] theorem State.setIndex_coldLevel (v : Word) : (s.setIndex v).coldLevel = s.coldLevel := rfl
@[simp] theorem State.setIndex_warmLevel (v : Word) : (s.setIndex v).warmLevel = s.warmLevel := rfl
@[simp] theorem State.setIndex_busErrPending (v : Word) : (s.setIndex v).busErrPending = s.busErrPending := rfl
@[simp] theorem State.setIndex_timerPending (v : Word) : (s.setIndex v).timerPending = s.timerPending := rfl
@[simp] theorem State.setIndex_waiting (v : Word) : (s.setIndex v).waiting = s.waiting := rfl
@[simp] theorem State.setIndex_waitSlip (v : Word) : (s.setIndex v).waitSlip = s.waitSlip := rfl
@[simp] theorem State.setIndex_uart (v : Word) : (s.setIndex v).uart = s.uart := rfl
@[simp] theorem State.setIndex_mem (v : Word) : (s.setIndex v).mem = s.mem := rfl
@[simp] theorem State.setIndex_env (v : Word) : (s.setIndex v).env = s.env := rfl
@[simp] theorem State.setIndex_script (v : Word) : (s.setIndex v).script = s.script := rfl
@[simp] theorem State.setIndex_out (v : Word) : (s.setIndex v).out = s.out := rfl
@[simp] theorem State.setIndex_recent (v : Word) :
    (s.setIndex v).recent = (s.endHazards [.index]).recent := rfl
@[simp] theorem State.setIndex_cacheDue (v : Word) : (s.setIndex v).cacheDue = s.cacheDue := rfl
@[simp] theorem State.setIndex_tlbRecent (v : Word) : (s.setIndex v).tlbRecent = s.tlbRecent := rfl
@[simp] theorem State.setIndex_trace (v : Word) : (s.setIndex v).trace = s.trace := rfl
@[simp] theorem State.setIndex_tick (v : Word) : (s.setIndex v).tick = s.tick := rfl

/-! ### The broken link (40 R284) -/

@[simp] theorem State.clearLink_cfg : (s.clearLink).cfg = s.cfg := rfl
@[simp] theorem State.clearLink_gpr : (s.clearLink).gpr = s.gpr := rfl
@[simp] theorem State.clearLink_hi : (s.clearLink).hi = s.hi := rfl
@[simp] theorem State.clearLink_lo : (s.clearLink).lo = s.lo := rfl
@[simp] theorem State.clearLink_pc : (s.clearLink).pc = s.pc := rfl
@[simp] theorem State.clearLink_npc : (s.clearLink).npc = s.npc := rfl
@[simp] theorem State.clearLink_inSlot : (s.clearLink).inSlot = s.inSlot := rfl
@[simp] theorem State.clearLink_taken : (s.clearLink).taken = s.taken := rfl
@[simp] theorem State.clearLink_slotOfJr : (s.clearLink).slotOfJr = s.slotOfJr := rfl
@[simp] theorem State.clearLink_llbit : (s.clearLink).llbit = false := rfl
@[simp] theorem State.clearLink_cp0 : (s.clearLink).cp0 = s.cp0 := rfl
@[simp] theorem State.clearLink_tlb : (s.clearLink).tlb = s.tlb := rfl
@[simp] theorem State.clearLink_itlb : (s.clearLink).itlb = s.itlb := rfl
@[simp] theorem State.clearLink_icache : (s.clearLink).icache = s.icache := rfl
@[simp] theorem State.clearLink_imru : (s.clearLink).imru = s.imru := rfl
@[simp] theorem State.clearLink_dcache : (s.clearLink).dcache = s.dcache := rfl
@[simp] theorem State.clearLink_wbuf : (s.clearLink).wbuf = s.wbuf := rfl
@[simp] theorem State.clearLink_busLock : (s.clearLink).busLock = false := rfl
@[simp] theorem State.clearLink_nmiPending : (s.clearLink).nmiPending = s.nmiPending := rfl
@[simp] theorem State.clearLink_nmiLevel : (s.clearLink).nmiLevel = s.nmiLevel := rfl
@[simp] theorem State.clearLink_coldLevel : (s.clearLink).coldLevel = s.coldLevel := rfl
@[simp] theorem State.clearLink_warmLevel : (s.clearLink).warmLevel = s.warmLevel := rfl
@[simp] theorem State.clearLink_busErrPending : (s.clearLink).busErrPending = s.busErrPending := rfl
@[simp] theorem State.clearLink_timerPending : (s.clearLink).timerPending = s.timerPending := rfl
@[simp] theorem State.clearLink_waiting : (s.clearLink).waiting = s.waiting := rfl
@[simp] theorem State.clearLink_waitSlip : (s.clearLink).waitSlip = s.waitSlip := rfl
@[simp] theorem State.clearLink_uart : (s.clearLink).uart = s.uart := rfl
@[simp] theorem State.clearLink_mem : (s.clearLink).mem = s.mem := rfl
@[simp] theorem State.clearLink_env : (s.clearLink).env = s.env := rfl
@[simp] theorem State.clearLink_script : (s.clearLink).script = s.script := rfl
@[simp] theorem State.clearLink_out : (s.clearLink).out = s.out := rfl
@[simp] theorem State.clearLink_recent : (s.clearLink).recent = s.recent := rfl
@[simp] theorem State.clearLink_cacheDue : (s.clearLink).cacheDue = s.cacheDue := rfl
@[simp] theorem State.clearLink_tlbRecent : (s.clearLink).tlbRecent = s.tlbRecent := rfl
@[simp] theorem State.clearLink_trace : (s.clearLink).trace = s.trace := rfl
@[simp] theorem State.clearLink_tick : (s.clearLink).tick = s.tick := rfl

/-! ### Hazard distances that end (log entry 17) -/

@[simp] theorem State.endHazards_cfg (rs : List HazardReg) : (s.endHazards rs).cfg = s.cfg := rfl
@[simp] theorem State.endHazards_gpr (rs : List HazardReg) : (s.endHazards rs).gpr = s.gpr := rfl
@[simp] theorem State.endHazards_hi (rs : List HazardReg) : (s.endHazards rs).hi = s.hi := rfl
@[simp] theorem State.endHazards_lo (rs : List HazardReg) : (s.endHazards rs).lo = s.lo := rfl
@[simp] theorem State.endHazards_pc (rs : List HazardReg) : (s.endHazards rs).pc = s.pc := rfl
@[simp] theorem State.endHazards_npc (rs : List HazardReg) : (s.endHazards rs).npc = s.npc := rfl
@[simp] theorem State.endHazards_inSlot (rs : List HazardReg) : (s.endHazards rs).inSlot = s.inSlot := rfl
@[simp] theorem State.endHazards_taken (rs : List HazardReg) : (s.endHazards rs).taken = s.taken := rfl
@[simp] theorem State.endHazards_slotOfJr (rs : List HazardReg) : (s.endHazards rs).slotOfJr = s.slotOfJr := rfl
@[simp] theorem State.endHazards_llbit (rs : List HazardReg) : (s.endHazards rs).llbit = s.llbit := rfl
@[simp] theorem State.endHazards_cp0 (rs : List HazardReg) : (s.endHazards rs).cp0 = s.cp0 := rfl
@[simp] theorem State.endHazards_tlb (rs : List HazardReg) : (s.endHazards rs).tlb = s.tlb := rfl
@[simp] theorem State.endHazards_itlb (rs : List HazardReg) : (s.endHazards rs).itlb = s.itlb := rfl
@[simp] theorem State.endHazards_icache (rs : List HazardReg) : (s.endHazards rs).icache = s.icache := rfl
@[simp] theorem State.endHazards_imru (rs : List HazardReg) : (s.endHazards rs).imru = s.imru := rfl
@[simp] theorem State.endHazards_dcache (rs : List HazardReg) : (s.endHazards rs).dcache = s.dcache := rfl
@[simp] theorem State.endHazards_wbuf (rs : List HazardReg) : (s.endHazards rs).wbuf = s.wbuf := rfl
@[simp] theorem State.endHazards_busLock (rs : List HazardReg) : (s.endHazards rs).busLock = s.busLock := rfl
@[simp] theorem State.endHazards_nmiPending (rs : List HazardReg) : (s.endHazards rs).nmiPending = s.nmiPending := rfl
@[simp] theorem State.endHazards_nmiLevel (rs : List HazardReg) : (s.endHazards rs).nmiLevel = s.nmiLevel := rfl
@[simp] theorem State.endHazards_coldLevel (rs : List HazardReg) : (s.endHazards rs).coldLevel = s.coldLevel := rfl
@[simp] theorem State.endHazards_warmLevel (rs : List HazardReg) : (s.endHazards rs).warmLevel = s.warmLevel := rfl
@[simp] theorem State.endHazards_busErrPending (rs : List HazardReg) :
    (s.endHazards rs).busErrPending = s.busErrPending := rfl
@[simp] theorem State.endHazards_timerPending (rs : List HazardReg) :
    (s.endHazards rs).timerPending = s.timerPending := rfl
@[simp] theorem State.endHazards_waiting (rs : List HazardReg) : (s.endHazards rs).waiting = s.waiting := rfl
@[simp] theorem State.endHazards_waitSlip (rs : List HazardReg) : (s.endHazards rs).waitSlip = s.waitSlip := rfl
@[simp] theorem State.endHazards_uart (rs : List HazardReg) : (s.endHazards rs).uart = s.uart := rfl
@[simp] theorem State.endHazards_mem (rs : List HazardReg) : (s.endHazards rs).mem = s.mem := rfl
@[simp] theorem State.endHazards_env (rs : List HazardReg) : (s.endHazards rs).env = s.env := rfl
@[simp] theorem State.endHazards_script (rs : List HazardReg) : (s.endHazards rs).script = s.script := rfl
@[simp] theorem State.endHazards_out (rs : List HazardReg) : (s.endHazards rs).out = s.out := rfl
@[simp] theorem State.endHazards_recent (rs : List HazardReg) :
    (s.endHazards rs).recent = s.recent.filter fun h => !rs.contains h.reg := rfl
@[simp] theorem State.endHazards_cacheDue (rs : List HazardReg) : (s.endHazards rs).cacheDue = s.cacheDue := rfl
@[simp] theorem State.endHazards_tlbRecent (rs : List HazardReg) : (s.endHazards rs).tlbRecent = s.tlbRecent := rfl
@[simp] theorem State.endHazards_trace (rs : List HazardReg) : (s.endHazards rs).trace = s.trace := rfl
@[simp] theorem State.endHazards_tick (rs : List HazardReg) : (s.endHazards rs).tick = s.tick := rfl

/-! ### One TLB entry (46 R464) -/

@[simp] theorem State.setEntry_cfg (i : BitVec 5) (e : TlbEntry) : (s.setEntry i e).cfg = s.cfg := rfl
@[simp] theorem State.setEntry_gpr (i : BitVec 5) (e : TlbEntry) : (s.setEntry i e).gpr = s.gpr := rfl
@[simp] theorem State.setEntry_hi (i : BitVec 5) (e : TlbEntry) : (s.setEntry i e).hi = s.hi := rfl
@[simp] theorem State.setEntry_lo (i : BitVec 5) (e : TlbEntry) : (s.setEntry i e).lo = s.lo := rfl
@[simp] theorem State.setEntry_pc (i : BitVec 5) (e : TlbEntry) : (s.setEntry i e).pc = s.pc := rfl
@[simp] theorem State.setEntry_npc (i : BitVec 5) (e : TlbEntry) : (s.setEntry i e).npc = s.npc := rfl
@[simp] theorem State.setEntry_inSlot (i : BitVec 5) (e : TlbEntry) : (s.setEntry i e).inSlot = s.inSlot := rfl
@[simp] theorem State.setEntry_taken (i : BitVec 5) (e : TlbEntry) : (s.setEntry i e).taken = s.taken := rfl
@[simp] theorem State.setEntry_slotOfJr (i : BitVec 5) (e : TlbEntry) : (s.setEntry i e).slotOfJr = s.slotOfJr := rfl
@[simp] theorem State.setEntry_llbit (i : BitVec 5) (e : TlbEntry) : (s.setEntry i e).llbit = s.llbit := rfl
@[simp] theorem State.setEntry_cp0 (i : BitVec 5) (e : TlbEntry) : (s.setEntry i e).cp0 = s.cp0 := rfl
@[simp] theorem State.setEntry_tlb (i : BitVec 5) (e : TlbEntry) :
    (s.setEntry i e).tlb = s.tlb.set i.toNat e (i.isLt) := rfl
@[simp] theorem State.setEntry_itlb (i : BitVec 5) (e : TlbEntry) : (s.setEntry i e).itlb = s.itlb := rfl
@[simp] theorem State.setEntry_icache (i : BitVec 5) (e : TlbEntry) : (s.setEntry i e).icache = s.icache := rfl
@[simp] theorem State.setEntry_imru (i : BitVec 5) (e : TlbEntry) : (s.setEntry i e).imru = s.imru := rfl
@[simp] theorem State.setEntry_dcache (i : BitVec 5) (e : TlbEntry) : (s.setEntry i e).dcache = s.dcache := rfl
@[simp] theorem State.setEntry_wbuf (i : BitVec 5) (e : TlbEntry) : (s.setEntry i e).wbuf = s.wbuf := rfl
@[simp] theorem State.setEntry_busLock (i : BitVec 5) (e : TlbEntry) : (s.setEntry i e).busLock = s.busLock := rfl
@[simp] theorem State.setEntry_nmiPending (i : BitVec 5) (e : TlbEntry) :
    (s.setEntry i e).nmiPending = s.nmiPending := rfl
@[simp] theorem State.setEntry_nmiLevel (i : BitVec 5) (e : TlbEntry) : (s.setEntry i e).nmiLevel = s.nmiLevel := rfl
@[simp] theorem State.setEntry_coldLevel (i : BitVec 5) (e : TlbEntry) : (s.setEntry i e).coldLevel = s.coldLevel := rfl
@[simp] theorem State.setEntry_warmLevel (i : BitVec 5) (e : TlbEntry) : (s.setEntry i e).warmLevel = s.warmLevel := rfl
@[simp] theorem State.setEntry_busErrPending (i : BitVec 5) (e : TlbEntry) :
    (s.setEntry i e).busErrPending = s.busErrPending := rfl
@[simp] theorem State.setEntry_timerPending (i : BitVec 5) (e : TlbEntry) :
    (s.setEntry i e).timerPending = s.timerPending := rfl
@[simp] theorem State.setEntry_waiting (i : BitVec 5) (e : TlbEntry) : (s.setEntry i e).waiting = s.waiting := rfl
@[simp] theorem State.setEntry_waitSlip (i : BitVec 5) (e : TlbEntry) : (s.setEntry i e).waitSlip = s.waitSlip := rfl
@[simp] theorem State.setEntry_uart (i : BitVec 5) (e : TlbEntry) : (s.setEntry i e).uart = s.uart := rfl
@[simp] theorem State.setEntry_mem (i : BitVec 5) (e : TlbEntry) : (s.setEntry i e).mem = s.mem := rfl
@[simp] theorem State.setEntry_env (i : BitVec 5) (e : TlbEntry) : (s.setEntry i e).env = s.env := rfl
@[simp] theorem State.setEntry_script (i : BitVec 5) (e : TlbEntry) : (s.setEntry i e).script = s.script := rfl
@[simp] theorem State.setEntry_out (i : BitVec 5) (e : TlbEntry) : (s.setEntry i e).out = s.out := rfl
@[simp] theorem State.setEntry_recent (i : BitVec 5) (e : TlbEntry) : (s.setEntry i e).recent = s.recent := rfl
@[simp] theorem State.setEntry_cacheDue (i : BitVec 5) (e : TlbEntry) : (s.setEntry i e).cacheDue = s.cacheDue := rfl
@[simp] theorem State.setEntry_tlbRecent (i : BitVec 5) (e : TlbEntry) : (s.setEntry i e).tlbRecent = s.tlbRecent := rfl
@[simp] theorem State.setEntry_trace (i : BitVec 5) (e : TlbEntry) : (s.setEntry i e).trace = s.trace := rfl
@[simp] theorem State.setEntry_tick (i : BitVec 5) (e : TlbEntry) : (s.setEntry i e).tick = s.tick := rfl

/-! ### A transfer to a coprocessor (45 R440) -/

@[simp] theorem State.copSend_cfg (z : BitVec 2) (w : Word) (v : Option Word) : (s.copSend z w v).cfg = s.cfg := rfl
@[simp] theorem State.copSend_gpr (z : BitVec 2) (w : Word) (v : Option Word) : (s.copSend z w v).gpr = s.gpr := rfl
@[simp] theorem State.copSend_hi (z : BitVec 2) (w : Word) (v : Option Word) : (s.copSend z w v).hi = s.hi := rfl
@[simp] theorem State.copSend_lo (z : BitVec 2) (w : Word) (v : Option Word) : (s.copSend z w v).lo = s.lo := rfl
@[simp] theorem State.copSend_pc (z : BitVec 2) (w : Word) (v : Option Word) : (s.copSend z w v).pc = s.pc := rfl
@[simp] theorem State.copSend_npc (z : BitVec 2) (w : Word) (v : Option Word) : (s.copSend z w v).npc = s.npc := rfl
@[simp] theorem State.copSend_inSlot (z : BitVec 2) (w : Word) (v : Option Word) :
    (s.copSend z w v).inSlot = s.inSlot := rfl
@[simp] theorem State.copSend_taken (z : BitVec 2) (w : Word) (v : Option Word) :
    (s.copSend z w v).taken = s.taken := rfl
@[simp] theorem State.copSend_slotOfJr (z : BitVec 2) (w : Word) (v : Option Word) :
    (s.copSend z w v).slotOfJr = s.slotOfJr := rfl
@[simp] theorem State.copSend_llbit (z : BitVec 2) (w : Word) (v : Option Word) :
    (s.copSend z w v).llbit = s.llbit := rfl
@[simp] theorem State.copSend_cp0 (z : BitVec 2) (w : Word) (v : Option Word) : (s.copSend z w v).cp0 = s.cp0 := rfl
@[simp] theorem State.copSend_tlb (z : BitVec 2) (w : Word) (v : Option Word) : (s.copSend z w v).tlb = s.tlb := rfl
@[simp] theorem State.copSend_itlb (z : BitVec 2) (w : Word) (v : Option Word) : (s.copSend z w v).itlb = s.itlb := rfl
@[simp] theorem State.copSend_icache (z : BitVec 2) (w : Word) (v : Option Word) :
    (s.copSend z w v).icache = s.icache := rfl
@[simp] theorem State.copSend_imru (z : BitVec 2) (w : Word) (v : Option Word) : (s.copSend z w v).imru = s.imru := rfl
@[simp] theorem State.copSend_dcache (z : BitVec 2) (w : Word) (v : Option Word) :
    (s.copSend z w v).dcache = s.dcache := rfl
@[simp] theorem State.copSend_wbuf (z : BitVec 2) (w : Word) (v : Option Word) : (s.copSend z w v).wbuf = s.wbuf := rfl
@[simp] theorem State.copSend_busLock (z : BitVec 2) (w : Word) (v : Option Word) :
    (s.copSend z w v).busLock = s.busLock := rfl
@[simp] theorem State.copSend_nmiPending (z : BitVec 2) (w : Word) (v : Option Word) :
    (s.copSend z w v).nmiPending = s.nmiPending := rfl
@[simp] theorem State.copSend_nmiLevel (z : BitVec 2) (w : Word) (v : Option Word) :
    (s.copSend z w v).nmiLevel = s.nmiLevel := rfl
@[simp] theorem State.copSend_coldLevel (z : BitVec 2) (w : Word) (v : Option Word) :
    (s.copSend z w v).coldLevel = s.coldLevel := rfl
@[simp] theorem State.copSend_warmLevel (z : BitVec 2) (w : Word) (v : Option Word) :
    (s.copSend z w v).warmLevel = s.warmLevel := rfl
@[simp] theorem State.copSend_busErrPending (z : BitVec 2) (w : Word) (v : Option Word) :
    (s.copSend z w v).busErrPending = s.busErrPending := rfl
@[simp] theorem State.copSend_timerPending (z : BitVec 2) (w : Word) (v : Option Word) :
    (s.copSend z w v).timerPending = s.timerPending := rfl
@[simp] theorem State.copSend_waiting (z : BitVec 2) (w : Word) (v : Option Word) :
    (s.copSend z w v).waiting = s.waiting := rfl
@[simp] theorem State.copSend_waitSlip (z : BitVec 2) (w : Word) (v : Option Word) :
    (s.copSend z w v).waitSlip = s.waitSlip := rfl
@[simp] theorem State.copSend_uart (z : BitVec 2) (w : Word) (v : Option Word) : (s.copSend z w v).uart = s.uart := rfl
@[simp] theorem State.copSend_mem (z : BitVec 2) (w : Word) (v : Option Word) : (s.copSend z w v).mem = s.mem := rfl
@[simp] theorem State.copSend_env (z : BitVec 2) (w : Word) (v : Option Word) : (s.copSend z w v).env = s.env := rfl
@[simp] theorem State.copSend_script (z : BitVec 2) (w : Word) (v : Option Word) :
    (s.copSend z w v).script = s.script := rfl
@[simp] theorem State.copSend_out (z : BitVec 2) (w : Word) (v : Option Word) :
    (s.copSend z w v).out = { s.out with cop := some { unit := z, word := w, dataIn := v } } := rfl
@[simp] theorem State.copSend_recent (z : BitVec 2) (w : Word) (v : Option Word) :
    (s.copSend z w v).recent = s.recent := rfl
@[simp] theorem State.copSend_cacheDue (z : BitVec 2) (w : Word) (v : Option Word) :
    (s.copSend z w v).cacheDue = s.cacheDue := rfl
@[simp] theorem State.copSend_tlbRecent (z : BitVec 2) (w : Word) (v : Option Word) :
    (s.copSend z w v).tlbRecent = s.tlbRecent := rfl
@[simp] theorem State.copSend_trace (z : BitVec 2) (w : Word) (v : Option Word) :
    (s.copSend z w v).trace = s.trace := rfl
@[simp] theorem State.copSend_tick (z : BitVec 2) (w : Word) (v : Option Word) : (s.copSend z w v).tick = s.tick := rfl

/-! ### General registers (10 R21) -/

@[simp] theorem State.setReg_cfg (r : BitVec 5) (v : Word) : (s.setReg r v).cfg = s.cfg := by
  unfold State.setReg; split <;> rfl
@[simp] theorem State.setReg_hi (r : BitVec 5) (v : Word) : (s.setReg r v).hi = s.hi := by
  unfold State.setReg; split <;> rfl
@[simp] theorem State.setReg_lo (r : BitVec 5) (v : Word) : (s.setReg r v).lo = s.lo := by
  unfold State.setReg; split <;> rfl
@[simp] theorem State.setReg_pc (r : BitVec 5) (v : Word) : (s.setReg r v).pc = s.pc := by
  unfold State.setReg; split <;> rfl
@[simp] theorem State.setReg_npc (r : BitVec 5) (v : Word) : (s.setReg r v).npc = s.npc := by
  unfold State.setReg; split <;> rfl
@[simp] theorem State.setReg_inSlot (r : BitVec 5) (v : Word) : (s.setReg r v).inSlot = s.inSlot := by
  unfold State.setReg; split <;> rfl
@[simp] theorem State.setReg_taken (r : BitVec 5) (v : Word) : (s.setReg r v).taken = s.taken := by
  unfold State.setReg; split <;> rfl
@[simp] theorem State.setReg_slotOfJr (r : BitVec 5) (v : Word) : (s.setReg r v).slotOfJr = s.slotOfJr := by
  unfold State.setReg; split <;> rfl
@[simp] theorem State.setReg_llbit (r : BitVec 5) (v : Word) : (s.setReg r v).llbit = s.llbit := by
  unfold State.setReg; split <;> rfl
@[simp] theorem State.setReg_cp0 (r : BitVec 5) (v : Word) : (s.setReg r v).cp0 = s.cp0 := by
  unfold State.setReg; split <;> rfl
@[simp] theorem State.setReg_tlb (r : BitVec 5) (v : Word) : (s.setReg r v).tlb = s.tlb := by
  unfold State.setReg; split <;> rfl
@[simp] theorem State.setReg_itlb (r : BitVec 5) (v : Word) : (s.setReg r v).itlb = s.itlb := by
  unfold State.setReg; split <;> rfl
@[simp] theorem State.setReg_icache (r : BitVec 5) (v : Word) : (s.setReg r v).icache = s.icache := by
  unfold State.setReg; split <;> rfl
@[simp] theorem State.setReg_imru (r : BitVec 5) (v : Word) : (s.setReg r v).imru = s.imru := by
  unfold State.setReg; split <;> rfl
@[simp] theorem State.setReg_dcache (r : BitVec 5) (v : Word) : (s.setReg r v).dcache = s.dcache := by
  unfold State.setReg; split <;> rfl
@[simp] theorem State.setReg_wbuf (r : BitVec 5) (v : Word) : (s.setReg r v).wbuf = s.wbuf := by
  unfold State.setReg; split <;> rfl
@[simp] theorem State.setReg_busLock (r : BitVec 5) (v : Word) : (s.setReg r v).busLock = s.busLock := by
  unfold State.setReg; split <;> rfl
@[simp] theorem State.setReg_nmiPending (r : BitVec 5) (v : Word) : (s.setReg r v).nmiPending = s.nmiPending := by
  unfold State.setReg; split <;> rfl
@[simp] theorem State.setReg_nmiLevel (r : BitVec 5) (v : Word) : (s.setReg r v).nmiLevel = s.nmiLevel := by
  unfold State.setReg; split <;> rfl
@[simp] theorem State.setReg_coldLevel (r : BitVec 5) (v : Word) : (s.setReg r v).coldLevel = s.coldLevel := by
  unfold State.setReg; split <;> rfl
@[simp] theorem State.setReg_warmLevel (r : BitVec 5) (v : Word) : (s.setReg r v).warmLevel = s.warmLevel := by
  unfold State.setReg; split <;> rfl
@[simp] theorem State.setReg_busErrPending (r : BitVec 5) (v : Word) : (s.setReg r v).busErrPending = s.busErrPending := by
  unfold State.setReg; split <;> rfl
@[simp] theorem State.setReg_timerPending (r : BitVec 5) (v : Word) : (s.setReg r v).timerPending = s.timerPending := by
  unfold State.setReg; split <;> rfl
@[simp] theorem State.setReg_waiting (r : BitVec 5) (v : Word) : (s.setReg r v).waiting = s.waiting := by
  unfold State.setReg; split <;> rfl
@[simp] theorem State.setReg_waitSlip (r : BitVec 5) (v : Word) : (s.setReg r v).waitSlip = s.waitSlip := by
  unfold State.setReg; split <;> rfl
@[simp] theorem State.setReg_uart (r : BitVec 5) (v : Word) : (s.setReg r v).uart = s.uart := by
  unfold State.setReg; split <;> rfl
@[simp] theorem State.setReg_mem (r : BitVec 5) (v : Word) : (s.setReg r v).mem = s.mem := by
  unfold State.setReg; split <;> rfl
@[simp] theorem State.setReg_env (r : BitVec 5) (v : Word) : (s.setReg r v).env = s.env := by
  unfold State.setReg; split <;> rfl
@[simp] theorem State.setReg_script (r : BitVec 5) (v : Word) : (s.setReg r v).script = s.script := by
  unfold State.setReg; split <;> rfl
@[simp] theorem State.setReg_out (r : BitVec 5) (v : Word) : (s.setReg r v).out = s.out := by
  unfold State.setReg; split <;> rfl
@[simp] theorem State.setReg_recent (r : BitVec 5) (v : Word) : (s.setReg r v).recent = s.recent := by
  unfold State.setReg; split <;> rfl
@[simp] theorem State.setReg_cacheDue (r : BitVec 5) (v : Word) : (s.setReg r v).cacheDue = s.cacheDue := by
  unfold State.setReg; split <;> rfl
@[simp] theorem State.setReg_tlbRecent (r : BitVec 5) (v : Word) : (s.setReg r v).tlbRecent = s.tlbRecent := by
  unfold State.setReg; split <;> rfl
@[simp] theorem State.setReg_trace (r : BitVec 5) (v : Word) : (s.setReg r v).trace = s.trace := by
  unfold State.setReg; split <;> rfl
@[simp] theorem State.setReg_tick (r : BitVec 5) (v : Word) : (s.setReg r v).tick = s.tick := by
  unfold State.setReg; split <;> rfl

/-- r0 reads zero. -/
@[simp] theorem State.reg_zero : s.reg 0 = 0 := rfl

/-- What every register reads as after a write: a write to r0 is discarded. -/
theorem State.reg_setReg (r k : BitVec 5) (v : Word) : (s.setReg r v).reg k = if k = r ∧ r ≠ 0 then v else s.reg k := by
  unfold State.setReg
  by_cases hr : r = 0
  · rw [if_pos hr, if_neg (fun h => h.2 hr)]
  · rw [if_neg hr]
    by_cases hk : k = r
    · subst hk
      rw [if_pos ⟨rfl, hr⟩]
      unfold State.reg
      rw [if_neg hr]
      exact Vector.getElem_set_self _
    · rw [if_neg (fun h => hk h.1)]
      have hne : r.toNat ≠ k.toNat := fun h => hk (BitVec.eq_of_toNat_eq h.symm)
      unfold State.reg
      by_cases h0 : k = 0
      · rw [if_pos h0, if_pos h0]
      · rw [if_neg h0, if_neg h0]
        exact Vector.getElem_set_ne r.isLt k.isLt hne

/-- The register file stays as it is where only other fields change. -/
theorem State.reg_congr {s t : State} (h : t.gpr = s.gpr) (k : BitVec 5) : t.reg k = s.reg k := by
  simp only [State.reg, h]

@[simp] theorem State.reg_advance (k : BitVec 5) : (s.advance).reg k = s.reg k := rfl
@[simp] theorem State.reg_transfer (target : Word) (j : Bool) (k : BitVec 5) : (s.transfer target j).reg k = s.reg k := rfl
@[simp] theorem State.reg_fallThrough (k : BitVec 5) : (s.fallThrough).reg k = s.reg k := rfl
@[simp] theorem State.reg_annul (k : BitVec 5) : (s.annul).reg k = s.reg k := rfl
@[simp] theorem State.reg_goTo (target : Word) (k : BitVec 5) : (s.goTo target).reg k = s.reg k := rfl
@[simp] theorem State.reg_setHiLo (hi lo : Word) (k : BitVec 5) : (s.setHiLo hi lo).reg k = s.reg k := rfl
@[simp] theorem State.reg_setDcs (bits : Word) (k : BitVec 5) : (s.setDcs bits).reg k = s.reg k := rfl
@[simp] theorem State.reg_setIndex (v : Word) (k : BitVec 5) : (s.setIndex v).reg k = s.reg k := rfl
@[simp] theorem State.reg_clearLink (k : BitVec 5) : (s.clearLink).reg k = s.reg k := rfl
@[simp] theorem State.reg_endHazards (rs : List HazardReg) (k : BitVec 5) : (s.endHazards rs).reg k = s.reg k := rfl
@[simp] theorem State.reg_setEntry (i : BitVec 5) (e : TlbEntry) (k : BitVec 5) : (s.setEntry i e).reg k = s.reg k := rfl
@[simp] theorem State.reg_copSend (z : BitVec 2) (w : Word) (v : Option Word) (k : BitVec 5) :
    (s.copSend z w v).reg k = s.reg k := rfl

/-! ### No pending distance -/

/-- With no distance pending, a consumer sees the current value. -/
@[simp] theorem State.seen_nil {s : State} (h : s.recent = []) (r : HazardReg) (v : Word) : s.seen r v = v := by
  cases hn : s.env.choice.stale.of r <;> simp [State.seen, h, hn]

/-- Nor does ending distances change the state. -/
@[simp] theorem State.endHazards_nil {s : State} (h : s.recent = []) (rs : List HazardReg) : s.endHazards rs = s := by
  have hf : s.recent.filter (fun x => !rs.contains x.reg) = s.recent := by rw [h]; rfl
  unfold State.endHazards
  rw [hf]

end Sys2Proof.Machine
end

