-- ==== Sys2Proof/Laws/Results.lean ====
section
/-! SUPPORT. What an operation can answer, said once: the inversion of `Res.andThen`, `Res.settle`, `State.resolve` and
of the boundary, and the induction principle "every state the answer carries satisfies `P`". -/

namespace Sys2Proof.Machine

-- Many small theorems: elaborating them one after another keeps the memory of the check low.
set_option Elab.async false

/-- Every state an answer carries satisfies `P`. -/
def Res.Sat {α : Type} (P : State → Prop) : Res α → Prop
  | .ok _ t => P t
  | .raise _ t => P t
  | .abandon t => P t
  | .fault _ => True
  | .refuse _ => True

/-- The next state, if there is one, satisfies `P`. -/
def Result.Sat (P : State → Prop) : Result → Prop
  | .next t => P t
  | .fault _ => True
  | .refused _ => True

variable {P : State → Prop}

theorem Res.Sat.andThen {α β : Type} {x : Res α} {f : α → State → Res β} (hx : x.Sat P)
    (hf : ∀ a t, P t → (f a t).Sat P) : (x.andThen f).Sat P := by
  cases x with
  | ok a t => exact hf a t hx
  | raise e t => exact hx
  | abandon t => exact hx
  | fault r => trivial
  | refuse r => trivial

theorem Result.Sat.next {r : Result} (h : Result.Sat P r) {t : State} (hr : r = .next t) : P t := by
  subst hr; exact h

/-- `andThen` answers a value exactly when both parts do. -/
theorem Res.andThen_eq_ok {α β : Type} {x : Res α} {f : α → State → Res β} {b : β} {u : State} :
    x.andThen f = .ok b u ↔ ∃ a t, x = .ok a t ∧ f a t = .ok b u := by
  cases x <;> simp [Res.andThen]

/-- `andThen` raises exactly when the first part does, or the second does after the first. -/
theorem Res.andThen_eq_raise {α β : Type} {x : Res α} {f : α → State → Res β} {e : Exc} {u : State} :
    x.andThen f = .raise e u ↔ x = .raise e u ∨ ∃ a t, x = .ok a t ∧ f a t = .raise e u := by
  cases x <;> simp [Res.andThen]

@[simp] theorem Res.ok_andThen {α β : Type} (a : α) (s : State) (f : α → State → Res β) :
    (Res.ok a s).andThen f = f a s := rfl

@[simp] theorem Res.raise_andThen {α β : Type} (e : Exc) (s : State) (f : α → State → Res β) :
    (Res.raise e s : Res α).andThen f = .raise e s := rfl

@[simp] theorem Res.fault_andThen {α β : Type} (r : Fault) (f : α → State → Res β) :
    (Res.fault r : Res α).andThen f = .fault r := rfl

@[simp] theorem Res.refuse_andThen {α β : Type} (r : Refusal) (f : α → State → Res β) :
    (Res.refuse r : Res α).andThen f = .refuse r := rfl

@[simp] theorem Res.settle_ok (t u : State) : Res.settle (.ok t u) = .next t := rfl

@[simp] theorem Res.settle_raise (e : Exc) (s : State) : Res.settle (.raise e s) = s.raised e := rfl

@[simp] theorem Res.settle_abandon (s : State) : Res.settle (.abandon s) = .next s := rfl

/-- `settle` answers a next state in three ways: the instruction ended, its exception was taken, or it was given up for
its Debug exception. -/
theorem Res.settle_eq_next {x : Res State} {t : State} :
    x.settle = .next t ↔
      (∃ u, x = .ok t u) ∨ (∃ e u, x = .raise e u ∧ t = (u.leakNext).takeException e) ∨ x = .abandon t := by
  cases x <;> simp [Res.settle, State.raised, eq_comm]

/-- What an answer carries into another state: the same, in that state. -/
theorem Res.Sat.inState {α : Type} {x : Res α} {s : State} (h : P s) : (x.inState s).Sat P := by
  cases x <;> first | exact h | trivial

/-- A value followed by an ending: the answer's states all satisfy `P` if those of the operation do and the ending keeps
it, and so do the states its exceptions are entered in. -/
theorem Res.Sat.settleThen {α : Type} {x : Res α} {f : α → State → State} (hx : x.Sat P)
    (hf : ∀ a t, P t → P (f a t)) (hr : ∀ e t, P t → P ((t.leakNext).takeException e)) :
    Result.Sat P (Res.settle (x.andThen fun a t => .ok (f a t) t)) := by
  cases x with
  | ok a t => exact hf a t hx
  | raise e t => exact hr e t hx
  | abandon t => exact hx
  | fault r => trivial
  | refuse r => trivial

/-- What `resolve` can answer (60 R511, lines 8 to 12). -/
theorem State.resolve_eq_next {pre u : State} {r : Result} (h : State.resolve pre r = .next u) :
    ∃ t, r = .next t ∧
      (u = t.finish ∨ u = (pre.takeException .int).finish ∨ u = (pre.takeEvi).finish ∨
        u = (((pre.setDcs (t.out.dataBits &&& 0x3F)).leakNext).takeDebug).finish ∨ u = (t.ageHazards).finish) := by
  unfold State.resolve at h
  split at h
  · rename_i t
    refine ⟨t, rfl, ?_⟩
    split at h
    · exact .inl (by simpa using h.symm)
    · split at h
      · exact .inr (.inl (by simpa using h.symm))
      · split at h
        · exact .inr (.inr (.inl (by simpa using h.symm)))
        · split at h
          · exact .inr (.inr (.inr (.inl (by simpa using h.symm))))
          · exact .inr (.inr (.inr (.inr (by simpa using h.symm))))
  · cases h
  · cases h

/-- What every outcome of the boundary satisfies, from what its parts do (60 R511). -/
theorem State.boundary_sat {s : State} (hcold : P { s with coldLevel := true, warmLevel := s.warmLevel || s.env.pins.warm }.finish)
    (hcold' : P { s.takeCold with coldLevel := false, warmLevel := s.env.pins.warm }.finish)
    (hwarm : P { s with warmLevel := true }.finish) (hwarm' : P { s.takeWarm with warmLevel := false }.finish)
    (hnmi : P (s.takeNmi).finish) (hidle : P { s with waitSlip := 0 }.finish)
    (hrun : Result.Sat P (s.beginStep).runOne) :
    Result.Sat P s.boundary := by
  unfold State.boundary
  split
  · exact hcold
  · split
    · exact hcold'
    · split
      · exact hwarm
      · split
        · exact hwarm'
        · split
          · exact hnmi
          · split
            · exact hidle
            · split
              · trivial
              · exact hrun

end Sys2Proof.Machine
end

