-- ==== Sys2Proof/Laws/Sparse.lean ====
section
/-! SUPPORT. The laws of the canonical lists: read after write, frame, and that every write keeps the canonical form.
Memory, cache data, cache tags and the I-cache's use bits rest on them. -/

namespace Sys2Proof.Machine

-- Many small theorems: elaborating them one after another keeps the memory of the check low.
set_option Elab.async false

/-! ### One key -/

/-- A write leaves every other key alone. -/
theorem Sparse.get_set_other {α : Type} [DecidableEq α] (d : α) (m : List (Nat × α)) {a b : Nat} (v : α)
    (h : b ≠ a) : Sparse.get d (Sparse.set d m a v) b = Sparse.get d m b := by
  induction m with
  | nil => by_cases hv : v = d <;> simp [Sparse.set, Sparse.get, hv, h]
  | cons p t ih =>
    obtain ⟨k, w⟩ := p
    simp only [Sparse.set]
    split
    · subst k
      split <;> simp [Sparse.get, h]
    · split
      · split <;> simp [Sparse.get, h]
      · simp [Sparse.get, ih]

/-- Below the bound of a canonical list nothing is listed. -/
theorem Sparse.get_of_wfFrom {α : Type} [DecidableEq α] (d : α) (m : List (Nat × α)) {lo a : Nat}
    (hm : Sparse.wfFrom d lo m = true) (ha : a < lo) : Sparse.get d m a = d := by
  induction m generalizing lo with
  | nil => rfl
  | cons p t ih =>
    obtain ⟨k, w⟩ := p
    simp only [Sparse.wfFrom, Bool.and_eq_true, decide_eq_true_eq] at hm
    have hk : a ≠ k := by omega
    simp only [Sparse.get, hk, if_false]
    exact ih hm.2 (by omega)

/-- A read after a write to the same key, whatever bound the list has. -/
theorem Sparse.get_set_same_from {α : Type} [DecidableEq α] (d : α) (m : List (Nat × α)) {lo a : Nat} (v : α)
    (hm : Sparse.wfFrom d lo m = true) : Sparse.get d (Sparse.set d m a v) a = v := by
  induction m generalizing lo with
  | nil => by_cases hv : v = d <;> simp [Sparse.set, Sparse.get, hv]
  | cons p t ih =>
    obtain ⟨k, w⟩ := p
    simp only [Sparse.wfFrom, Bool.and_eq_true, decide_eq_true_eq] at hm
    simp only [Sparse.set]
    split
    · rename_i hk
      subst hk
      split
      · rename_i hv
        rw [Sparse.get_of_wfFrom d t hm.2 (by omega), hv]
      · simp [Sparse.get]
    · rename_i hk
      split
      · rename_i hlt
        split
        · rename_i hv
          rw [hv]
          have : Sparse.get d t a = d := Sparse.get_of_wfFrom d t hm.2 (by omega)
          simp [Sparse.get, hk, this]
        · simp [Sparse.get]
      · simp [Sparse.get, hk, ih hm.2]

/-- A read after a write to the same key gives the value written. -/
theorem Sparse.get_set_same {α : Type} [DecidableEq α] (d : α) (m : List (Nat × α)) (a : Nat) (v : α)
    (hm : Sparse.wf d m = true) : Sparse.get d (Sparse.set d m a v) a = v :=
  Sparse.get_set_same_from d m v hm

/-- A read after the write of a value that is listed needs no canonical form. -/
theorem Sparse.get_set_same_listed {α : Type} [DecidableEq α] (d : α) (m : List (Nat × α)) (a : Nat) {v : α}
    (hv : v ≠ d) : Sparse.get d (Sparse.set d m a v) a = v := by
  induction m with
  | nil => simp [Sparse.set, Sparse.get, hv]
  | cons p t ih =>
    obtain ⟨k, w⟩ := p
    simp only [Sparse.set, hv, if_false]
    split
    · simp [Sparse.get]
    · split
      · simp [Sparse.get]
      · rename_i hk _
        simp [Sparse.get, hk, ih]

/-- A smaller bound is also one. -/
theorem Sparse.wfFrom_mono {α : Type} [DecidableEq α] (d : α) (m : List (Nat × α)) {lo lo' : Nat}
    (hm : Sparse.wfFrom d lo m = true) (h : lo' ≤ lo) : Sparse.wfFrom d lo' m = true := by
  cases m with
  | nil => rfl
  | cons p t =>
    obtain ⟨k, w⟩ := p
    simp only [Sparse.wfFrom, Bool.and_eq_true, decide_eq_true_eq] at hm ⊢
    exact ⟨⟨by omega, hm.1.2⟩, hm.2⟩

/-- A write keeps the canonical form. -/
theorem Sparse.wfFrom_set {α : Type} [DecidableEq α] (d : α) (m : List (Nat × α)) {lo a : Nat} (v : α)
    (hm : Sparse.wfFrom d lo m = true) (ha : lo ≤ a) : Sparse.wfFrom d lo (Sparse.set d m a v) = true := by
  induction m generalizing lo with
  | nil => by_cases hv : v = d <;> simp [Sparse.set, Sparse.wfFrom, hv, ha]
  | cons p t ih =>
    obtain ⟨k, w⟩ := p
    have hm' := hm
    simp only [Sparse.wfFrom, Bool.and_eq_true, decide_eq_true_eq] at hm
    simp only [Sparse.set]
    split
    · rename_i hk
      subst hk
      split
      · exact Sparse.wfFrom_mono d t hm.2 (by omega)
      · rename_i hv
        simp [Sparse.wfFrom, ha, hv, hm.2]
    · split
      · split
        · exact hm'
        · rename_i hv
          simp [Sparse.wfFrom, ha, hv, hm.1.2, hm.2]
          omega
      · simp only [Sparse.wfFrom, Bool.and_eq_true, decide_eq_true_eq]
        exact ⟨hm.1, ih hm.2 (by omega)⟩

/-- A write keeps the canonical form. -/
theorem Sparse.wf_set {α : Type} [DecidableEq α] (d : α) (m : List (Nat × α)) (a : Nat) (v : α)
    (hm : Sparse.wf d m = true) : Sparse.wf d (Sparse.set d m a v) = true :=
  Sparse.wfFrom_set d m v hm (Nat.zero_le a)

/-- A write below a bound keeps every key below it. -/
theorem Sparse.below_set {α : Type} [DecidableEq α] (d : α) (m : List (Nat × α)) {n a : Nat} (v : α)
    (hm : Sparse.below n m = true) (ha : a < n) : Sparse.below n (Sparse.set d m a v) = true := by
  induction m with
  | nil => by_cases hv : v = d <;> simp [Sparse.set, Sparse.below, hv, ha]
  | cons p t ih =>
    obtain ⟨k, w⟩ := p
    simp only [Sparse.below, List.all_cons, Bool.and_eq_true, decide_eq_true_eq] at hm ih ⊢
    simp only [Sparse.set]
    split
    · split <;> simp [ha, hm.2]
    · split
      · split <;> simp [ha, hm.1, hm.2]
      · simp only [List.all_cons, Bool.and_eq_true, decide_eq_true_eq]
        exact ⟨hm.1, ih hm.2⟩

/-! ### Memory (20 R120, R124) -/

/-- A byte write keeps the canonical form of a memory. -/
theorem Memory.wf_write (m : List Host.Cell) {a : Nat} (b : Byte) (hm : Memory.wf m = true) (ha : a < 2 ^ 32) :
    Memory.wf (Memory.write m a b) = true := by
  simp only [Memory.wf, Bool.and_eq_true] at hm ⊢
  exact ⟨Sparse.wf_set _ m a b hm.1, Sparse.below_set _ m b hm.2 ha⟩

/-- A byte write is read back. -/
theorem Memory.read_write_same (m : List Host.Cell) (a : Nat) (b : Byte) (hm : Memory.wf m = true) :
    Memory.read (Memory.write m a b) a = b := by
  simp only [Memory.wf, Bool.and_eq_true] at hm
  exact Sparse.get_set_same _ m a b hm.1

/-- A byte write leaves every other address alone. -/
theorem Memory.read_write_other (m : List Host.Cell) {a x : Nat} (b : Byte) (h : x ≠ a) :
    Memory.read (Memory.write m a b) x = Memory.read m x :=
  Sparse.get_set_other _ m b h

/-- Storing bytes keeps the canonical form. -/
theorem Memory.wf_writeBytes (bs : List Byte) (m : List Host.Cell) (a : Word) (hm : Memory.wf m = true) :
    Memory.wf (Memory.writeBytes m a bs) = true := by
  induction bs generalizing m a with
  | nil => exact hm
  | cons b bs ih => exact ih _ _ (Memory.wf_write m b hm a.isLt)

/-- Storing cells keeps the canonical form. -/
theorem Memory.wf_writeCells (cs : List Host.Cell) (m : List Host.Cell) (hm : Memory.wf m = true) :
    Memory.wf (Memory.writeCells m cs) = true := by
  induction cs generalizing m with
  | nil => exact hm
  | cons c cs ih =>
    obtain ⟨a, b⟩ := c
    exact ih _ (Memory.wf_write m b hm (Nat.mod_lt _ (by decide)))

/-- Storing bytes leaves every address alone that is none of theirs. -/
theorem Memory.read_writeBytes_other (bs : List Byte) (m : List Host.Cell) (a : Word) (x : Nat)
    (h : ∀ k, k < bs.length → x ≠ (a + BitVec.ofNat 32 k).toNat) :
    Memory.read (Memory.writeBytes m a bs) x = Memory.read m x := by
  induction bs generalizing m a with
  | nil => rfl
  | cons b bs ih =>
    simp only [Memory.writeBytes]
    rw [ih]
    · refine Memory.read_write_other m b ?_
      simpa using h 0 (by simp)
    · intro k hk
      have := h (k + 1) (by simp; omega)
      rwa [show a + BitVec.ofNat 32 (k + 1) = a + 1 + BitVec.ofNat 32 k by
        apply BitVec.eq_of_toNat_eq; simp; omega] at this

/-- Bytes that are stored and then read back at the same place, when the place does not wrap. -/
theorem Memory.readBytes_writeBytes (bs : List Byte) (m : List Host.Cell) (a : Word) (hm : Memory.wf m = true)
    (h : a.toNat + bs.length ≤ 2 ^ 32) :
    Memory.readBytes (Memory.writeBytes m a bs) a bs.length = bs := by
  induction bs generalizing m a with
  | nil => rfl
  | cons b bs ih =>
    simp only [List.length_cons] at h
    simp only [Memory.writeBytes, Memory.readBytes, List.length_cons, List.cons.injEq]
    by_cases hb : bs.length = 0
    · have : bs = [] := List.length_eq_zero_iff.mp hb
      subst this
      exact ⟨Memory.read_write_same m _ b hm, rfl⟩
    · have hstep : (a + 1).toNat = a.toNat + 1 := by simp; omega
      refine ⟨?_, ih _ _ (Memory.wf_write m b hm a.isLt) (by omega)⟩
      rw [Memory.read_writeBytes_other]
      · exact Memory.read_write_same m _ b hm
      · intro k hk
        simp
        omega

/-- Reset memory has the canonical form. -/
theorem Memory.wf_nil : Memory.wf [] = true := rfl

end Sys2Proof.Machine
end

