-- ==== Sys2Proof/Laws/CacheSets.lean ====
section
/-! SUPPORT. Every operation on a cache set keeps its tags and data in canonical form (10 R85, R86). -/

namespace Sys2Proof.Machine

-- Many small theorems: elaborating them one after another keeps the memory of the check low.
set_option Elab.async false

theorem CacheSet.Inv.setTag {c : CacheSet} (h : c.Inv) (line : Nat) (t : Tag) : (c.setTag line t).Inv :=
  ⟨Sparse.wf_set _ _ _ _ h.tags, h.data⟩

theorem writeRam_wf (bs : List Byte) (d : List Host.Cell) (off : Nat) (h : Sparse.wf 0 d = true) :
    Sparse.wf 0 (writeRam d off bs) = true := by
  induction bs generalizing d off with
  | nil => exact h
  | cons b bs ih => exact ih _ _ (Sparse.wf_set _ _ _ _ h)

theorem CacheSet.Inv.writeData {c : CacheSet} (h : c.Inv) (off : Nat) (bs : List Byte) : (c.writeData off bs).Inv :=
  ⟨h.tags, writeRam_wf bs _ _ h.data⟩

theorem CacheSet.Inv.invalidate {c : CacheSet} (h : c.Inv) (line : Nat) : (c.invalidate line).Inv := h.setTag _ _

/-- A fold of operations that each keep the form keeps it. -/
theorem CacheSet.Inv.foldl {α : Type} (f : CacheSet → α → CacheSet) (hf : ∀ c a, c.Inv → (f c a).Inv) (l : List α)
    {c : CacheSet} (h : c.Inv) : (l.foldl f c).Inv := by
  induction l generalizing c with
  | nil => exact h
  | cons a l ih => exact ih (hf c a h)

theorem CacheSet.Inv.invalidateAll {c : CacheSet} (h : c.Inv) : c.invalidateAll.Inv :=
  CacheSet.Inv.foldl _ (fun _ p h => h.invalidate p.1) _ h

theorem CacheSet.Inv.snoop {c : CacheSet} (h : c.Inv) (size : Nat) (line : BitVec 27) : (c.snoop size line).Inv := by
  unfold CacheSet.snoop
  dsimp only
  split
  · exact h.invalidate _
  · exact h

theorem CacheSet.Inv.revalidate {c : CacheSet} (h : c.Inv) (v : Nat → Bool) : (c.revalidate v).Inv :=
  CacheSet.Inv.foldl _ (fun _ _ h => h.setTag _ _) _ h

theorem CacheSet.Inv.flush {c : CacheSet} (h : c.Inv) (s : State) (on built : Bool) (base : Nat) :
    (s.flushSet c on built base).Inv := by
  unfold State.flushSet
  split
  · exact h.invalidateAll
  · split
    · exact h.revalidate _
    · exact h

theorem CacheSet.Inv.isolatedStore {c : CacheSet} (h : c.Inv) (size : Nat) (isD : Bool) (mode ccc va start : Word)
    (bs : List Byte) : (isolatedStoreSet c size isD mode ccc va start bs).Inv := by
  unfold isolatedStoreSet
  split
  · exact h.invalidate _
  · split
    · exact h.setTag _ _
    · exact h.writeData _ _

/-- A fold of writes keeps the canonical form of a list. -/
theorem Sparse.wf_foldl {α β : Type} [DecidableEq α] (d : α) (k : β → Nat) (v : List (Nat × α) → β → α) (l : List β)
    {m : List (Nat × α)} (h : Sparse.wf d m = true) :
    Sparse.wf d (l.foldl (fun m b => Sparse.set d m (k b) (v m b)) m) = true := by
  induction l generalizing m with
  | nil => exact h
  | cons b l ih => exact ih (Sparse.wf_set _ _ _ _ h)

theorem State.coldSet_inv (s : State) (base : Nat) (isD : Bool) : (s.coldSet base isD).Inv := by
  unfold State.coldSet
  generalize List.range 256 = tags
  generalize List.range 8192 = data
  exact ⟨Sparse.wf_foldl Tag.invalid id _ tags rfl, Sparse.wf_foldl 0 id _ data rfl⟩

theorem State.resetUses_wf (s : State) : Sparse.wf false s.resetUses = true := by
  unfold State.resetUses
  generalize List.range 256 = lines
  exact Sparse.wf_foldl false id _ lines rfl

end Sys2Proof.Machine
end

