-- ==== Sys2Proof/Laws/Data.lean ====
section
/-! SUPPORT. What bytes and tags read as after a write: memory, the data RAM and the tag RAM of a cache set, each said once
for a whole run of bytes (20 R124, R170). -/

namespace Sys2Proof.Machine

-- Many small theorems: elaborating them one after another keeps the memory of the check low.
set_option Elab.async false

/-! ### Memory (20 R124) -/

/-- Reading `n` bytes, byte by byte. -/
theorem Memory.readBytes_getElem? (m : List Host.Cell) (a : Word) (n k : Nat) (h : a.toNat + n ≤ 2 ^ 32) :
    (Memory.readBytes m a n)[k]? = if k < n then some (Memory.read m (a.toNat + k)) else none := by
  induction n generalizing a k with
  | zero => rfl
  | succ n ih =>
    cases k with
    | zero => simp [Memory.readBytes]
    | succ k =>
      by_cases hn : n = 0
      · subst hn; simp [Memory.readBytes]
      · have hs : (a + 1).toNat = a.toNat + 1 := by simp; omega
        simp only [Memory.readBytes, List.getElem?_cons_succ]
        rw [ih _ _ (by omega), hs]
        by_cases hk : k < n
        · rw [if_pos hk, if_pos (by omega), Nat.add_assoc, Nat.add_comm 1]
        · rw [if_neg hk, if_neg (by omega)]

@[simp] theorem Memory.length_readBytes (m : List Host.Cell) (a : Word) (n : Nat) :
    (Memory.readBytes m a n).length = n := by
  induction n generalizing a with
  | zero => rfl
  | succ n ih => simp [Memory.readBytes, ih]

/-- Every byte of memory after a run of bytes is stored that does not wrap. -/
theorem Memory.read_writeBytes (m : List Host.Cell) (a : Word) (bs : List Byte) (x : Nat) (hm : Memory.wf m = true)
    (h : a.toNat + bs.length ≤ 2 ^ 32) :
    Memory.read (Memory.writeBytes m a bs) x =
      if a.toNat ≤ x then (bs[x - a.toNat]?).getD (Memory.read m x) else Memory.read m x := by
  induction bs generalizing m a with
  | nil => simp [Memory.writeBytes]
  | cons b bs ih =>
    simp only [List.length_cons] at h
    simp only [Memory.writeBytes]
    have hw := Memory.wf_write m b hm a.isLt
    by_cases hb : bs = []
    · subst hb
      simp only [Memory.writeBytes]
      by_cases hx : x = a.toNat
      · subst hx; simp [Memory.read_write_same m _ b hm]
      · rw [Memory.read_write_other m b hx]
        split
        · rw [List.getElem?_eq_none (by simp; omega)]; rfl
        · rfl
    · have hpos : 0 < bs.length := List.length_pos_iff.mpr hb
      have hs : (a + 1).toNat = a.toNat + 1 := by simp; omega
      rw [ih _ _ hw (by omega), hs]
      by_cases hx : x = a.toNat
      · subst hx
        rw [if_neg (by omega), if_pos (Nat.le_refl _), Nat.sub_self]
        simp [Memory.read_write_same m _ b hm]
      · rw [Memory.read_write_other m b hx]
        by_cases hle : a.toNat + 1 ≤ x
        · rw [if_pos hle, if_pos (by omega), show x - a.toNat = (x - (a.toNat + 1)) + 1 by omega,
            List.getElem?_cons_succ]
        · rw [if_neg hle, if_neg (by omega)]

/-! ### The data RAM (20 R170) -/

/-- Reading `n` data bytes, byte by byte. -/
theorem CacheSet.readData_getElem? (c : CacheSet) (off n k : Nat) :
    (c.readData off n)[k]? = if k < n then some (Sparse.get 0 c.data (off + k)) else none := by
  induction n generalizing off k with
  | zero => rfl
  | succ n ih =>
    cases k with
    | zero => simp [CacheSet.readData]
    | succ k =>
      simp only [CacheSet.readData, List.getElem?_cons_succ]
      rw [ih]
      by_cases hk : k < n
      · rw [if_pos hk, if_pos (by omega), Nat.add_assoc, Nat.add_comm 1]
      · rw [if_neg hk, if_neg (by omega)]

@[simp] theorem CacheSet.length_readData (c : CacheSet) (off n : Nat) : (c.readData off n).length = n := by
  induction n generalizing off with
  | zero => rfl
  | succ n ih => simp [CacheSet.readData, ih]

/-- Every byte of a data RAM after a run of bytes is written. -/
theorem get_writeRam (d : List Host.Cell) (off : Nat) (bs : List Byte) (x : Nat) (hd : Sparse.wf 0 d = true) :
    Sparse.get 0 (writeRam d off bs) x =
      if off ≤ x then (bs[x - off]?).getD (Sparse.get 0 d x) else Sparse.get 0 d x := by
  induction bs generalizing d off with
  | nil => simp [writeRam]
  | cons b bs ih =>
    simp only [writeRam]
    rw [ih _ _ (Sparse.wf_set _ _ _ _ hd)]
    by_cases hx : x = off
    · subst hx
      rw [if_neg (by omega), if_pos (Nat.le_refl _), Nat.sub_self]
      exact Sparse.get_set_same _ _ _ b hd
    · rw [Sparse.get_set_other _ _ b hx]
      by_cases hle : off + 1 ≤ x
      · rw [if_pos hle, if_pos (by omega), show x - off = (x - (off + 1)) + 1 by omega, List.getElem?_cons_succ]
      · rw [if_neg hle, if_neg (by omega)]

@[simp] theorem CacheSet.writeData_tags (c : CacheSet) (off : Nat) (bs : List Byte) : (c.writeData off bs).tags = c.tags := rfl
@[simp] theorem CacheSet.setTag_data (c : CacheSet) (line : Nat) (t : Tag) : (c.setTag line t).data = c.data := rfl
@[simp] theorem CacheSet.tagAt_writeData (c : CacheSet) (off : Nat) (bs : List Byte) (l : Nat) :
    (c.writeData off bs).tagAt l = c.tagAt l := rfl

/-- A run of bytes written to a set: the data after it. -/
theorem CacheSet.Inv.dataAfter {c : CacheSet} (h : c.Inv) (off : Nat) (bs : List Byte) :
    DataAfter c (c.writeData off bs) off fun j => bs[j]? :=
  fun k => get_writeRam c.data off bs k h.data

/-- A tag written to a set: the tags after it. -/
theorem CacheSet.Inv.tagAfter {c : CacheSet} (h : c.Inv) (line : Nat) (t : Tag) : TagAfter c (c.setTag line t) line t := by
  intro l
  by_cases hl : l = line
  · subst hl
    rw [if_pos rfl]
    exact Sparse.get_set_same _ _ _ _ h.tags
  · rw [if_neg hl]
    exact Sparse.get_set_other _ _ _ hl

/-! ### The two sets of a cache -/

@[simp] theorem Cache.way_setWay (c : Cache) (w : Bool) (x : CacheSet) : (c.setWay w x).way w = x := by cases w <;> rfl
@[simp] theorem Cache.way_setWay_other (c : Cache) (w : Bool) (x : CacheSet) : (c.setWay w x).way (!w) = c.way (!w) := by
  cases w <;> rfl
@[simp] theorem Cache.setWay_way (c : Cache) (w : Bool) : c.setWay w (c.way w) = c := by cases w <;> rfl
@[simp] theorem Cache.setWay_setWay (c : Cache) (w : Bool) (x y : CacheSet) : (c.setWay w x).setWay w y = c.setWay w y := by
  cases w <;> rfl
@[simp] theorem State.dcache_setDWay (s : State) (w : Bool) (x : CacheSet) : (s.setDWay w x).dcache = s.dcache.setWay w x := rfl
@[simp] theorem State.icache_setIWay (s : State) (w : Bool) (x : CacheSet) : (s.setIWay w x).icache = s.icache.setWay w x := rfl

/-- The set that answers is one that takes part. -/
theorem Cache.hitWay_on {c : Cache} {on0 on1 : Bool} {size : Nat} {va pa : Word} {w : Bool}
    (h : c.hitWay on0 on1 size va pa = some w) :
    (if w then on1 else on0) = true ∧ (c.way w).hits size va pa = true := by
  unfold Cache.hitWay at h
  split at h
  · rename_i h0
    simp only [Bool.and_eq_true] at h0
    cases h
    exact h0
  · split at h
    · rename_i h1
      simp only [Bool.and_eq_true] at h1
      cases h
      exact h1
    · cases h

end Sys2Proof.Machine
end

