-- ==== Sys2Proof/Laws/Access.lean ====
section
/-! SUPPORT. What each shared operation of a data access or a fetch answers where nothing disturbs it: one lemma per
operation of Machine/Bus.lean and Machine/Access.lean, for later proofs to cite instead of unfolding it. -/

namespace Sys2Proof.Machine

-- Many small theorems: elaborating them one after another keeps the memory of the check low.
set_option Elab.async false

variable {s : State}

/-! ### The bus where no write fails (20 R124, R180 to R182) -/

theorem State.nextWriteGood_of (h : s.env.pins.errWrite = false) : s.nextWriteGood = true := by
  simp [State.nextWriteGood, h]

theorem State.nextWriteHangs_of (h : s.env.pins.errWrite = false) : s.nextWriteHangs = false := by
  simp [State.nextWriteHangs, State.nextWriteGood_of h]

theorem State.answerWrite_of (h : s.env.pins.errWrite = false) : s.answerWrite = s := by simp [State.answerWrite, h]

theorem State.endWrite_of (h : s.env.pins.errWrite = false) (write : State → State) : s.endWrite write = write s := by
  simp [State.endWrite, State.nextWriteGood_of h, State.answerWrite_of h]

theorem State.busLine_of (h : s.env.pins.errWrite = false) (pa : Word) (bs : List Byte) :
    s.busLine pa bs = .ok true (s.physLine pa bs) := by
  simp [State.busLine, State.nextWriteHangs_of h, State.nextWriteGood_of h, State.endWrite_of h]

/-- A write to the ICEport changes its registers and what it sends. -/
theorem State.iceportWrite_eq (s : State) (r : BitVec 2) (v : Word) :
    ∃ uart out, s.iceportWrite r v = { s with uart := uart, out := out } := by
  unfold State.iceportWrite
  dsimp only
  repeat' split
  all_goals exact ⟨_, _, rfl⟩

/-- A write to physical memory changes memory, the ICEport's registers and what it sends. -/
theorem State.physWrite_eq (s : State) (e : WriteEntry) :
    ∃ mem uart out, s.physWrite e = { s with mem := mem, uart := uart, out := out } := by
  unfold State.physWrite
  split
  · exact ⟨_, _, _, rfl⟩
  · rename_i r _
    obtain ⟨u, o, h1⟩ := s.iceportWrite_eq r (ofBytes s.cfg.bigEndian (e.bytes.take 4))
    dsimp only
    split
    · obtain ⟨u', o', h2⟩ := (s.iceportWrite r (ofBytes s.cfg.bigEndian (e.bytes.take 4))).iceportWrite_eq (r + 1)
        (ofBytes (s.iceportWrite r (ofBytes s.cfg.bigEndian (e.bytes.take 4))).cfg.bigEndian (e.bytes.drop 4))
      rw [h2, h1]
      exact ⟨_, _, _, rfl⟩
    · rw [h1]
      exact ⟨_, _, _, rfl⟩

/-- So does a line that is written. -/
theorem State.physLine_eq (s : State) (a : Word) (bs : List Byte) :
    ∃ mem uart out, s.physLine a bs = { s with mem := mem, uart := uart, out := out } := by
  have hw : ∀ (s : State) (a : Word) (bs : List Byte),
      ∃ mem uart out, s.physWords a bs = { s with mem := mem, uart := uart, out := out } := by
    intro s a bs
    induction s, a, bs using State.physWords.induct with
    | case1 s a b0 b1 b2 b3 bs ih =>
      obtain ⟨m, u, o, h⟩ := State.physWrite_eq s { addr := a, bytes := [b0, b1, b2, b3] }
      obtain ⟨m', u', o', h'⟩ := ih
      unfold State.physWords
      rw [h', h]
      exact ⟨_, _, _, rfl⟩
    | case2 s a l h =>
      unfold State.physWords
      split
      · exact absurd rfl (h _ _ _ _ _)
      · exact ⟨_, _, _, rfl⟩
  unfold State.physLine
  split
  · exact hw _ _ _
  · exact ⟨_, _, _, rfl⟩

/-- What the bus and the buffer may change of `s`: memory, the write buffer, the ICEport. -/
def BusFrame (s t : State) (wbuf : List WriteEntry) : Prop :=
  ∃ mem uart out, t = { s with wbuf := wbuf, mem := mem, uart := uart, out := out }

/-- The `n` oldest entries leave the buffer. -/
theorem State.drain_of (h : s.env.pins.errWrite = false) (n : Nat) : BusFrame s (s.drain n) (s.wbuf.drop n) := by
  induction n generalizing s with
  | zero => exact ⟨s.mem, s.uart, s.out, rfl⟩
  | succ n ih =>
    unfold State.drain
    split
    · rename_i hw
      refine ⟨s.mem, s.uart, s.out, ?_⟩
      rw [hw, List.drop_nil, ← hw]
    · rename_i e es hw
      obtain ⟨m, u, o, he⟩ := State.physWrite_eq { s with wbuf := es } e
      have hb : State.busWrite { s with wbuf := es } e = State.physWrite { s with wbuf := es } e :=
        State.endWrite_of (s := { s with wbuf := es }) h fun t => t.physWrite e
      obtain ⟨m', u', o', h'⟩ := ih (s := State.busWrite { s with wbuf := es } e) (by rw [hb, he]; exact h)
      rw [if_neg (by simp [State.nextWriteHangs_of h]), h', hb, he, hw]
      exact ⟨_, _, _, rfl⟩

/-- So the core waits for them and goes on. -/
theorem State.awaitDrain_of (h : s.env.pins.errWrite = false) (n : Nat) : s.awaitDrain n = .ok () (s.drain n) := by
  obtain ⟨m, u, o, hd⟩ := State.drain_of h n
  unfold State.awaitDrain
  rw [if_pos (by rw [hd]; simp)]

/-- An empty buffer has nothing to drain. -/
theorem State.drain_nil (h : s.wbuf = []) (n : Nat) : s.drain n = s := by
  cases n with
  | zero => rfl
  | succ n => unfold State.drain; rw [h]

theorem State.awaitDrain_nil (h : s.wbuf = []) (n : Nat) : s.awaitDrain n = .ok () s := by
  simp [State.awaitDrain, State.drain_nil h, h]

theorem State.orderRead_nil (h : s.wbuf = []) (pa : Word) (n : Nat) : s.orderRead pa n = .ok () s :=
  State.awaitDrain_nil h _

/-- Every entry of ordinary memory reaches it, oldest first. -/
theorem State.drainAll_plain (h : s.env.pins.errWrite = false) (hp : ∀ e ∈ s.wbuf, s.iceportReg e.addr = none) :
    s.drainAll = { s with wbuf := [], mem := s.wbuf.foldl (fun m e => Memory.writeBytes m e.addr e.bytes) s.mem } := by
  unfold State.drainAll
  generalize hl : s.wbuf = l at hp
  induction l generalizing s with
  | nil => rw [State.drain_nil hl]; rw [List.foldl_nil, ← hl]
  | cons e es ih =>
    have hb : State.busWrite { s with wbuf := es } e = { s with wbuf := es, mem := Memory.writeBytes s.mem e.addr e.bytes } := by
      refine (State.endWrite_of (s := { s with wbuf := es }) h fun t => t.physWrite e).trans ?_
      have he : State.iceportReg { s with wbuf := es } e.addr = none := hp e (by simp)
      simp [State.physWrite, he]
    simp only [List.length_cons, State.drain, hl]
    rw [if_neg (by simp [State.nextWriteHangs_of h]), hb]
    exact ih (s := { s with wbuf := es, mem := Memory.writeBytes s.mem e.addr e.bytes }) h rfl
      fun x hx => hp x (List.mem_cons_of_mem _ hx)

/-- A store of ordinary memory enters an empty buffer. -/
theorem State.push_nil (h : s.wbuf = []) {pa : Word} {bs : List Byte} (hp : s.touchesIceport pa bs.length = false) :
    s.push pa bs = .ok () { s with wbuf := [{ addr := pa, bytes := bs }] } := by
  simp [State.push, hp, h, appendEntry]

/-- A read of ordinary memory that is answered. -/
theorem State.busRead_of {err later : Bool} {pa : Word} {n : Nat} (h : s.env.pins.hang = false) (he : err = false)
    (hp : s.touchesIceport pa n = false) : s.busRead err later pa n = .ok (Memory.readBytes s.mem pa n, false) s := by
  simp [State.busRead, h, he, hp]

/-- A line of ordinary memory is written at once. -/
theorem State.physLine_of {pa : Word} {bs : List Byte} (hp : s.touchesIceport pa bs.length = false) :
    s.physLine pa bs = { s with mem := Memory.writeBytes s.mem pa bs } := by simp [State.physLine, hp]

/-! ### The address of a data access (20 R141, R143, R150, R160) -/

/-- What a TLB instruction next to an access may change under it: the TLB and EntryHi. -/
theorem State.tlbSeen_eq (s : State) :
    ∃ tlb hi recent, s.tlbSeen = { s with tlb := tlb, cp0 := { s.cp0 with entryHi := hi }, recent := recent } := by
  have h1 : ∀ s : State, ∃ tlb hi recent,
      s.beforeLastTlb = { s with tlb := tlb, cp0 := { s.cp0 with entryHi := hi }, recent := recent } := by
    intro s
    unfold State.beforeLastTlb
    split <;> exact ⟨_, _, _, rfl⟩
  have h2 : ∀ s : State, ∃ tlb hi recent,
      s.afterNextTlb = { s with tlb := tlb, cp0 := { s.cp0 with entryHi := hi }, recent := recent } := by
    intro s
    unfold State.afterNextTlb
    repeat' split
    all_goals exact ⟨_, _, _, rfl⟩
  unfold State.tlbSeen
  obtain ⟨a, b, c, h1⟩ := h1 s
  dsimp only
  split
  · rw [h1]
    split
    · obtain ⟨a', b', c', h2⟩ := h2 { s with tlb := a, cp0 := { s.cp0 with entryHi := b }, recent := c }
      rw [h2]
      exact ⟨_, _, _, rfl⟩
    · exact ⟨_, _, _, rfl⟩
  · split
    · exact h2 s
    · exact ⟨_, _, _, rfl⟩

/-- A breakpoint facility that is off sees nothing. -/
theorem State.debugDataCheck_off (h : s.debugOn = false) (va : Word) (store : Bool) : s.debugDataCheck va store = s := by
  simp [State.debugDataCheck, State.dataEvent, h]

theorem State.dataEvent_off (h : s.debugOn = false) (va : Word) (store : Bool) : s.dataEvent va store = false := by
  simp [State.dataEvent, h]

/-- A data access in kseg0 or kseg1: no translation, in whatever state the TLB is; a Debug exception that is taken comes
before the access. -/
theorem State.dataAddress_unmapped {va : Word} {align : Nat} {store : Bool} (ha : va.toNat % align = 0)
    (hu : s.userMode = false) (hv : va.extractLsb' 30 2 = 0b10#2) :
    s.dataAddress va align store =
      if s.dataEvent va store && s.debugTaken then .abandon (s.debugDataCheck va store)
      else .ok (va &&& 0x1FFFFFFF, if inKseg1 va then .uncached else s.segAttr .load) (s.debugDataCheck va store) := by
  obtain ⟨a, b, c, ht⟩ := s.tlbSeen_eq
  have hu' : s.tlbSeen.userMode = false := by rw [ht]; exact hu
  have hk : s.tlbSeen.segAttr = s.segAttr := by rw [ht]; rfl
  have hsl : s.segAttr .store = s.segAttr .load := rfl
  cases store <;> simp [State.dataAddress, State.translate, aligned, unmapped, ha, hv, hu', hk, hsl, Res.inState]

/-- The same with the breakpoint facility off. -/
theorem State.dataAddress_quiet {va : Word} {align : Nat} {store : Bool} (ha : va.toNat % align = 0)
    (hu : s.userMode = false) (hv : va.extractLsb' 30 2 = 0b10#2) (hd : s.debugOn = false) :
    s.dataAddress va align store =
      .ok (va &&& 0x1FFFFFFF, if inKseg1 va then .uncached else s.segAttr .load) s := by
  rw [State.dataAddress_unmapped ha hu hv, State.dataEvent_off hd, State.debugDataCheck_off hd]
  simp

/-- While the caches are isolated nothing is translated either; the address is of no account. -/
theorem State.dataAddress_isolated {va : Word} {align : Nat} {store : Bool} (ha : va.toNat % align = 0)
    (hs : s.Isolated) : ∃ r, s.dataAddress va align store = .ok r s := by
  obtain ⟨a, b, c, ht⟩ := s.tlbSeen_eq
  have hu' : s.tlbSeen.userMode = false := by rw [ht]; exact hs.kernel
  by_cases hv : unmapped va = true <;>
    cases store <;>
    simp [State.dataAddress, State.translate, aligned, hv, ha, hu', hs.isolated, Res.inState,
      State.dataEvent_off hs.noDebug, State.debugDataCheck_off hs.noDebug]

/-! ### The D-cache (20 R170, R172, R173, R175) -/

/-- Writing back a line where no write fails and nothing waits: a dirty line goes to memory and is clean. -/
theorem State.writeBackLine_of {w : Bool} {line : Nat} {c : CacheSet} {g : Tag} {q : Word} (hc : c = s.dcache.way w)
    (hg : g = c.tagAt line) (hq : q = c.lineAddress s.dsize line) (he : s.env.pins.errWrite = false) (hb : s.wbuf = [])
    (hp : g.valid = true → g.dirty = true → s.touchesIceport q 32 = false) :
    s.writeBackLine w line = .ok () (if g.valid && g.dirty then
      { s with mem := Memory.writeBytes s.mem q (c.readData (lineOffset line) 32)
               dcache := s.dcache.setWay w (c.setTag line { g with dirty := false }) } else s) := by
  subst hc hg hq
  unfold State.writeBackLine
  dsimp only
  split
  · rename_i h
    have h' := h
    simp only [Bool.and_eq_true] at h'
    rw [State.awaitDrain_nil hb, Res.ok_andThen, State.busLine_of he, Res.ok_andThen,
      State.physLine_of (by simpa using hp h'.1 h'.2)]
    simp [State.setDWay]
  · rfl

/-- Writing back a line where no write fails, whatever the buffer holds: a dirty line is clean. -/
theorem State.writeBackLine_clean {w : Bool} {line : Nat} (he : s.env.pins.errWrite = false) :
    ∃ mem wbuf uart out, s.writeBackLine w line = .ok () { s with
      mem := mem, wbuf := wbuf, uart := uart, out := out
      dcache := if ((s.dcache.way w).tagAt line).valid && ((s.dcache.way w).tagAt line).dirty then
        s.dcache.setWay w ((s.dcache.way w).setTag line { (s.dcache.way w).tagAt line with dirty := false })
        else s.dcache } := by
  unfold State.writeBackLine
  dsimp only
  split
  · obtain ⟨m, u, o, hd⟩ := State.drain_of he (pendingUpTo ((s.dcache.way w).lineAddress s.dsize line) 32 s.wbuf)
    rw [State.awaitDrain_of he, Res.ok_andThen, hd, State.busLine_of (by exact he), Res.ok_andThen]
    obtain ⟨m', u', o', hl⟩ := State.physLine_eq
      { s with wbuf := s.wbuf.drop (pendingUpTo ((s.dcache.way w).lineAddress s.dsize line) 32 s.wbuf)
               mem := m, uart := u, out := o }
      ((s.dcache.way w).lineAddress s.dsize line) ((s.dcache.way w).readData (lineOffset line) 32)
    rw [hl]
    exact ⟨_, _, _, _, rfl⟩
  · exact ⟨_, _, _, _, rfl⟩

/-! ### What a branch notes (60 R561, R563) -/

/-- DCS and the trace state after a branch to `target` has been noted. -/
theorem State.noted_branch (s : State) (cond : Bool) (target : Word) :
    ((s.traceTransfer cond).targetCheck target).cp0.dcs = s.dcsOfBranch target ∧
      ((s.traceTransfer cond).targetCheck target).trace = (if s.tracing && cond then .slot else s.trace) := by
  unfold State.targetCheck State.traceTransfer State.dcsOfBranch State.tracing
  have h : ({ s.setDcs 0x21 with trace := if cond then .slot else s.trace } : State).pcEvent target = s.pcEvent target := by
    unfold State.pcEvent State.debugOn State.setDcs State.userMode State.kernelMode State.pcMatch
    simp
    rfl
  by_cases a : (s.debugOn && s.cp0.dcs.getLsbD 28) = true <;> by_cases b : s.pcEvent target = true <;>
    simp_all [State.setDcs]
  all_goals split <;> simp_all

/-! ### The instruction TLB (10 R81) -/

/-- What the instruction TLB gives a fetch: nothing if it holds no entry of the page, else one of those it holds. -/
theorem State.heldFor_of (s : State) (va : Word) :
    (s.heldEntries.filter (fun e => e.vpnEq va) = [] → s.heldFor va = none) ∧
    (∀ x l, s.heldEntries.filter (fun e => e.vpnEq va) = x :: l → ∃ e ∈ x :: l, s.heldFor va = some e) := by
  unfold State.heldFor
  refine ⟨fun h => by rw [h], fun x l h => ?_⟩
  rw [h]
  dsimp only
  split
  · cases l with
    | nil => exact ⟨x, by simp, rfl⟩
    | cons y l => exact ⟨y, by simp, rfl⟩
  · exact ⟨x, by simp, rfl⟩

/-! ### A value CCC must not take (10 R63, 93 I30) -/

/-- The sizes a value written to CCC names are those built. -/
theorem State.sizesMatch_iff {v : Word} :
    s.SizesMatch v ↔ ((s.cfg.icachePresent && !(s.setCcc v).iSizeBuilt) ||
      (s.cfg.dcachePresent && !(s.setCcc v).dSizeBuilt)) = false := by
  have hc : (s.setCcc v).cp0.ccc = v &&& 0x17FFFFFF#32 ∧ (s.setCcc v).cfg = s.cfg := by
    unfold State.setCcc State.noteHazard
    dsimp only
    split <;> exact ⟨rfl, rfl⟩
  have hi : (v &&& 0x17FFFFFF#32).extractLsb' 14 2 = v.extractLsb' 14 2 := by
    rw [BitVec.extractLsb'_and, show (0x17FFFFFF#32).extractLsb' 14 2 = BitVec.allOnes 2 by decide, BitVec.and_allOnes]
  have hd : (v &&& 0x17FFFFFF#32).extractLsb' 10 2 = v.extractLsb' 10 2 := by
    rw [BitVec.extractLsb'_and, show (0x17FFFFFF#32).extractLsb' 10 2 = BitVec.allOnes 2 by decide, BitVec.and_allOnes]
  have key : ∀ (o : Option (BitVec 2)) (x : BitVec 2),
      ((o.getD x).toNat == x.toNat) = true ↔ ∀ c, o = some c → x = c := by
    intro o x
    cases o with
    | none => simp
    | some a =>
      simp only [Option.getD_some, beq_iff_eq, Option.some.injEq, forall_eq']
      exact ⟨fun h => BitVec.eq_of_toNat_eq h.symm, fun h => by rw [h]⟩
  unfold State.SizesMatch State.iSizeBuilt State.dSizeBuilt State.isize State.dsize Ccc.isize Ccc.dsize
  simp only [hc, hi, hd, Bool.or_eq_false_iff, Bool.and_eq_false_iff, Bool.not_eq_false', key]
  cases s.cfg.icachePresent <;> cases s.cfg.dcachePresent <;> simp

/-- When an MTC0 stops, and that it does not otherwise. -/
theorem State.mtc0Stop_of (s : State) (rd : BitVec 5) (v : Word) :
    (rd = 16 → ¬s.CmpKept v → s.mtc0Stop rd v = some .cmpCleared) ∧
    (rd = 16 → s.CmpKept v → ¬s.SizesMatch v → s.mtc0Stop rd v = some .cacheSizeMismatch) ∧
    ((rd = 16 → s.CmpKept v ∧ s.SizesMatch v) → s.mtc0Stop rd v = none) := by
  have hk : s.CmpKept v ↔ (Ccc.cmp s.cp0.ccc && !Ccc.cmp v) = false := by
    unfold State.CmpKept Ccc.cmp
    cases s.cp0.ccc.getLsbD 24 <;> cases v.getLsbD 24 <;> simp
  rw [State.sizesMatch_iff, hk]
  unfold State.mtc0Stop State.cccStop
  refine ⟨fun h h2 => ?_, fun h h2 h3 => ?_, fun h => ?_⟩
  · rw [if_pos h]
    dsimp only
    rw [if_pos (by simpa using h2)]
  · rw [if_pos h]
    dsimp only
    rw [if_neg (by simpa using h2), if_pos (Bool.not_eq_false _ ▸ h3)]
  · by_cases h16 : rd = 16
    · have h2 := h h16
      rw [if_pos h16]
      dsimp only
      rw [if_neg (by simpa using h2.1), if_neg (by simp [h2.2])]
    · rw [if_neg h16]

end Sys2Proof.Machine
end

