-- ==== Sys2Proof/Laws/Bytes.lean ====
section
/-! SUPPORT. Words and their bytes: what the byte order, the merges of LWL and LWR, and the tables of 40 R287 say of each
other (20 R131, 40 R276, R277, R281, R282, R287). -/

namespace Sys2Proof.Machine

-- Many small theorems: elaborating them one after another keeps the memory of the check low.
set_option Elab.async false

/-! ### Bits of a word made of bytes (20 R131) -/

theorem getLsbD_ofLowBytes (bs : List Byte) (i : Nat) (h : i < 32) :
    (ofLowBytes bs).getLsbD i = ((bs[i / 8]?).getD 0).getLsbD (i % 8) := by
  induction bs generalizing i with
  | nil => simp [ofLowBytes]
  | cons b bs ih =>
    simp only [ofLowBytes, BitVec.getLsbD_or, BitVec.getLsbD_shiftLeft, BitVec.truncate_eq_setWidth,
      BitVec.getLsbD_setWidth]
    by_cases h8 : i < 8
    · have h0 : i / 8 = 0 := by omega
      have h2 : i % 8 = i := by omega
      simp [h8, h, h0, h2]
    · have h1 : i / 8 = (i - 8) / 8 + 1 := by omega
      have h2 : (i - 8) % 8 = i % 8 := by omega
      rw [ih _ (by omega), h1, List.getElem?_cons_succ, h2]
      have hb : b.getLsbD i = false := BitVec.getLsbD_of_ge _ _ (by omega)
      simp [h8, h, hb]

theorem length_lowBytes (n : Nat) (v : Word) : (lowBytes n v).length = n := by
  induction n generalizing v with
  | zero => rfl
  | succ n ih => simp [lowBytes, ih]

@[simp] theorem length_toBytes (be : Bool) (n : Nat) (v : Word) : (toBytes be n v).length = n := by
  cases be <;> simp [toBytes, length_lowBytes]

/-- Shifting by whole bytes renumbers them. -/
theorem byteOf_ushiftRight (v : Word) (m k : Nat) : byteOf (v >>> (8 * m)) k = byteOf v (k + m) := by
  unfold byteOf
  apply BitVec.eq_of_getLsbD_eq
  intro i hi
  simp only [BitVec.getLsbD_extractLsb', hi, decide_true, Bool.true_and, BitVec.getLsbD_ushiftRight]
  congr 1
  omega

/-- A word's low bytes, one by one. -/
theorem lowBytes_getElem? (n k : Nat) (v : Word) : (lowBytes n v)[k]? = if k < n then some (byteOf v k) else none := by
  induction n generalizing k v with
  | zero => rfl
  | succ n ih =>
    cases k with
    | zero => simp [lowBytes, byteOf]
    | succ k =>
      have hs : byteOf (v >>> 8) k = byteOf v (k + 1) := byteOf_ushiftRight v 1 k
      simp only [lowBytes, List.getElem?_cons_succ, ih, hs, Nat.add_lt_add_iff_right]

/-- A word's bytes in address order, one by one. -/
theorem toBytes_getElem? (be : Bool) (n k : Nat) (v : Word) :
    (toBytes be n v)[k]? = if k < n then some (byteOf v (if be then n - 1 - k else k)) else none := by
  cases be
  · simp [toBytes, lowBytes_getElem?]
  · simp only [toBytes, if_true]
    by_cases hk : k < n
    · rw [List.getElem?_reverse (by simpa [length_lowBytes] using hk), length_lowBytes, lowBytes_getElem?,
        if_pos (by omega), if_pos hk]
    · rw [List.getElem?_eq_none (by simp [length_lowBytes]; omega), if_neg hk]

/-! ### The merging loads (40 R276, R277, R287) -/

theorem getLsbD_mergeLeft (n : Nat) (v r : Word) (i : Nat) (h : i < 32) :
    (mergeLeft n v r).getLsbD i = if i < 8 * (4 - n) then r.getLsbD i else v.getLsbD (i - 8 * (4 - n)) := by
  have ho : (0xFFFFFFFF#32) = BitVec.allOnes 32 := by decide
  unfold mergeLeft
  rw [ho]
  simp only [BitVec.getLsbD_or, BitVec.getLsbD_and, BitVec.getLsbD_not, BitVec.getLsbD_shiftLeft, BitVec.getLsbD_allOnes,
    h, decide_true, Bool.true_and]
  by_cases hi : i < 8 * (4 - n)
  · simp [hi]
  · have hlt : i - 8 * (4 - n) < 32 := by omega
    simp [hi, hlt]

theorem getLsbD_mergeRight (n : Nat) (v r : Word) (i : Nat) (h : i < 32)
    (hv : ∀ k, 8 * n ≤ k → v.getLsbD k = false) (hn : n ≤ 4) :
    (mergeRight n v r).getLsbD i = if i < 8 * n then v.getLsbD i else r.getLsbD i := by
  have ho : (0xFFFFFFFF#32) = BitVec.allOnes 32 := by decide
  unfold mergeRight
  rw [ho]
  simp only [BitVec.getLsbD_or, BitVec.getLsbD_and, BitVec.getLsbD_not, BitVec.getLsbD_ushiftRight, BitVec.getLsbD_allOnes,
    h, decide_true, Bool.true_and]
  by_cases hi : i < 8 * n
  · have hlt : 8 * (4 - n) + i < 32 := by omega
    simp [hi, hlt]
  · have hlt : ¬8 * (4 - n) + i < 32 := by omega
    simp [hi, hlt, hv i (by omega)]

theorem mergeLeft_ofLowBytes_1 (b0 : Byte) (r : Word) : mergeLeft 1 (ofLowBytes [b0]) r = b0 ++ r.extractLsb' 0 24 := by
  apply BitVec.eq_of_getLsbD_eq
  intro i hi
  rw [getLsbD_mergeLeft _ _ _ _ hi, getLsbD_ofLowBytes _ _ (by omega)]
  repeat rw [BitVec.getLsbD_append]
  interval_cases i <;> simp

theorem mergeLeft_ofLowBytes_2 (b0 b1 : Byte) (r : Word) :
    mergeLeft 2 (ofLowBytes [b0, b1]) r = b1 ++ b0 ++ r.extractLsb' 0 16 := by
  apply BitVec.eq_of_getLsbD_eq
  intro i hi
  rw [getLsbD_mergeLeft _ _ _ _ hi, getLsbD_ofLowBytes _ _ (by omega)]
  repeat rw [BitVec.getLsbD_append]
  interval_cases i <;> simp

theorem mergeLeft_ofLowBytes_3 (b0 b1 b2 : Byte) (r : Word) :
    mergeLeft 3 (ofLowBytes [b0, b1, b2]) r = b2 ++ b1 ++ b0 ++ r.extractLsb' 0 8 := by
  apply BitVec.eq_of_getLsbD_eq
  intro i hi
  rw [getLsbD_mergeLeft _ _ _ _ hi, getLsbD_ofLowBytes _ _ (by omega)]
  repeat rw [BitVec.getLsbD_append]
  interval_cases i <;> simp

theorem ofLowBytes_4 (b0 b1 b2 b3 : Byte) : ofLowBytes [b0, b1, b2, b3] = b3 ++ b2 ++ b1 ++ b0 := by
  apply BitVec.eq_of_getLsbD_eq
  intro i hi
  rw [getLsbD_ofLowBytes _ _ (by omega)]
  repeat rw [BitVec.getLsbD_append]
  interval_cases i <;> simp

theorem ofLowBytes_2 (b0 b1 : Byte) : ofLowBytes [b0, b1] = (0 : BitVec 16) ++ (b1 ++ b0) := by
  apply BitVec.eq_of_getLsbD_eq
  intro i hi
  rw [getLsbD_ofLowBytes _ _ (by omega)]
  repeat rw [BitVec.getLsbD_append]
  interval_cases i <;> simp

theorem ofLowBytes_1 (b0 : Byte) : ofLowBytes [b0] = (0 : BitVec 24) ++ b0 := by
  apply BitVec.eq_of_getLsbD_eq
  intro i hi
  rw [getLsbD_ofLowBytes _ _ (by omega)]
  repeat rw [BitVec.getLsbD_append]
  interval_cases i <;> simp

theorem mergeLeft_ofLowBytes_4 (b0 b1 b2 b3 : Byte) (r : Word) : mergeLeft 4 (ofLowBytes [b0, b1, b2, b3]) r = b3 ++ b2 ++ b1 ++ b0 := by
  rw [← ofLowBytes_4]
  apply BitVec.eq_of_getLsbD_eq
  intro i hi
  rw [getLsbD_mergeLeft _ _ _ _ hi]
  simp

/-- Beyond its bytes a value has no bit. -/
theorem ofLowBytes_high (bs : List Byte) (n : Nat) (hb : bs.length = n) (k : Nat) (hk : 8 * n ≤ k) :
    (ofLowBytes bs).getLsbD k = false := by
  by_cases h : k < 32
  · rw [getLsbD_ofLowBytes _ _ h, List.getElem?_eq_none (by omega)]
    simp
  · exact BitVec.getLsbD_of_ge _ _ (by omega)

theorem mergeRight_ofLowBytes_1 (b0 : Byte) (r : Word) : mergeRight 1 (ofLowBytes [b0]) r = r.extractLsb' 8 24 ++ b0 := by
  apply BitVec.eq_of_getLsbD_eq
  intro i hi
  rw [getLsbD_mergeRight _ _ _ _ hi (ofLowBytes_high [b0] 1 rfl) (by omega), getLsbD_ofLowBytes _ _ (by omega)]
  repeat rw [BitVec.getLsbD_append]
  interval_cases i <;> simp

theorem mergeRight_ofLowBytes_2 (b0 b1 : Byte) (r : Word) :
    mergeRight 2 (ofLowBytes [b0, b1]) r = r.extractLsb' 16 16 ++ b1 ++ b0 := by
  apply BitVec.eq_of_getLsbD_eq
  intro i hi
  rw [getLsbD_mergeRight _ _ _ _ hi (ofLowBytes_high [b0, b1] 2 rfl) (by omega), getLsbD_ofLowBytes _ _ (by omega)]
  repeat rw [BitVec.getLsbD_append]
  interval_cases i <;> simp

theorem mergeRight_ofLowBytes_3 (b0 b1 b2 : Byte) (r : Word) :
    mergeRight 3 (ofLowBytes [b0, b1, b2]) r = r.extractLsb' 24 8 ++ b2 ++ b1 ++ b0 := by
  apply BitVec.eq_of_getLsbD_eq
  intro i hi
  rw [getLsbD_mergeRight _ _ _ _ hi (ofLowBytes_high [b0, b1, b2] 3 rfl) (by omega), getLsbD_ofLowBytes _ _ (by omega)]
  repeat rw [BitVec.getLsbD_append]
  interval_cases i <;> simp

theorem mergeRight_ofLowBytes_4 (b0 b1 b2 b3 : Byte) (r : Word) : mergeRight 4 (ofLowBytes [b0, b1, b2, b3]) r = b3 ++ b2 ++ b1 ++ b0 := by
  rw [← ofLowBytes_4]
  apply BitVec.eq_of_getLsbD_eq
  intro i hi
  rw [getLsbD_mergeRight _ _ _ _ hi (ofLowBytes_high [b0, b1, b2, b3] 4 rfl) (by omega)]
  simp [hi]

end Sys2Proof.Machine
end

