-- ==== Sys2Proof/Laws/Forms.lean ====
section
/-! SUPPORT. Every load and every store in terms of one memory access: what `exec` answers once the access is known (40 R270
to R282, R287). -/

namespace Sys2Proof.Machine

-- Many small theorems: elaborating them one after another keeps the memory of the check low.
set_option Elab.async false

variable {s t : State}

/-- `n` of the bytes `b`, from number `k` on. -/
def bytesFrom (b : Nat → Byte) (k n : Nat) : List Byte := (List.range n).map fun j => b (k + j)

theorem bytesFrom_getElem? (b : Nat → Byte) (k n j : Nat) : (bytesFrom b k n)[j]? = if j < n then some (b (k + j)) else none := by
  unfold bytesFrom
  by_cases h : j < n
  · simp [h]
  · simp [h]

theorem bytesFrom_congr {b c : Nat → Byte} {k n : Nat} (h : ∀ j, j < k + n → b j = c j) :
    bytesFrom b k n = bytesFrom c k n := by
  unfold bytesFrom
  apply List.map_congr_left
  intro j hj
  exact h _ (by have := List.mem_range.mp hj; omega)

/-- A list is the bytes `b` from `k` on if it has their number and each of them. -/
theorem eq_bytesFrom {l : List Byte} {b : Nat → Byte} {k n : Nat} (hn : l.length = n)
    (h : ∀ j, j < n → l[j]? = some (b (k + j))) : l = bytesFrom b k n := by
  apply List.ext_getElem?
  intro j
  rw [bytesFrom_getElem?]
  split
  · exact h j ‹_›
  · exact List.getElem?_eq_none (by omega)

/-! ### The aligned word of an address (40 R287) -/

theorem wordBase_eq_shift (va : Word) : wordBase va = va >>> 2 <<< 2 := by
  have h3 : (~~~3 : Word) = BitVec.allOnes 32 <<< 2 := by decide
  unfold wordBase
  rw [h3]
  apply BitVec.eq_of_getLsbD_eq
  intro i hi
  simp only [BitVec.getLsbD_and, BitVec.getLsbD_shiftLeft, BitVec.getLsbD_ushiftRight, BitVec.getLsbD_allOnes, hi,
    decide_true, Bool.true_and]
  by_cases h2 : i < 2
  · simp [h2]
  · have hlt : i - 2 < 32 := by omega
    simp [h2, hlt, show 2 + (i - 2) = i by omega]

theorem wordBase_toNat (va : Word) : (wordBase va).toNat = va.toNat - va.toNat % 4 := by
  rw [wordBase_eq_shift]
  simp only [BitVec.toNat_shiftLeft, BitVec.toNat_ushiftRight, Nat.shiftLeft_eq, Nat.shiftRight_eq_div_pow]
  have := va.isLt
  omega

theorem wordBase_mod (va : Word) : (wordBase va).toNat % 4 = 0 := by rw [wordBase_toNat]; omega

theorem wordBase_wordBase (va : Word) : wordBase (wordBase va) = wordBase va := by
  apply BitVec.eq_of_toNat_eq
  have := wordBase_mod va
  rw [wordBase_toNat (wordBase va)]
  omega

/-- An aligned address is its word's. -/
theorem wordBase_of_aligned {va : Word} (h : va.toNat % 4 = 0) : wordBase va = va := by
  apply BitVec.eq_of_toNat_eq
  rw [wordBase_toNat]
  omega

/-! ### Loads -/

theorem signByte_byte (v : Byte) : signByte ((0 : BitVec 24) ++ v) = v.signExtend 32 := by
  unfold signByte
  congr 1
  apply BitVec.eq_of_getLsbD_eq
  intro i hi
  rw [BitVec.getLsbD_extractLsb', BitVec.getLsbD_append]
  simp [hi]

theorem signHalf_half (v : BitVec 16) : signHalf ((0 : BitVec 16) ++ v) = v.signExtend 32 := by
  unfold signHalf
  congr 1
  apply BitVec.eq_of_getLsbD_eq
  intro i hi
  rw [BitVec.getLsbD_extractLsb', BitVec.getLsbD_append]
  simp [hi]

/-- What every load does, once it is known what an access in the aligned word of its address answers: the register takes
the value `loadForms` lists and the pc moves on. -/
theorem loadForms_exec {be : Bool} {va : Word} {b : Nat → Byte} {p : Word × Attr} {base rt : BitVec 5} {off : BitVec 16}
    (hva : va = s.ea base off) (hbe : s.cfg.bigEndian = be)
    (h : ∀ (start : Word) (n align : Nat), wordBase start = wordBase va → start.toNat % 4 + n ≤ 4 → 0 < n →
      va.toNat % align = 0 → s.load va start align n = .ok (some (ofBytes be (bytesFrom b (start.toNat % 4) n)), p) t) :
    ∀ f ∈ loadForms be b (s.reg rt) va base rt off, va.toNat % f.1 = 0 →
      exec f.2.1 s = .next (t.setReg rt f.2.2).advance := by
  have hk : va.toNat % 4 = 0 ∨ va.toNat % 4 = 1 ∨ va.toNat % 4 = 2 ∨ va.toNat % 4 = 3 := by omega
  have hmerge : ∀ (start : Word) (n : Nat) (g : Word → Word → Word), wordBase start = wordBase va →
      start.toNat % 4 + n ≤ 4 → 0 < n → s.loadMerge va start n rt g =
        .next (t.setReg rt (g (ofBytes be (bytesFrom b (start.toNat % 4) n)) (s.reg rt))).advance := by
    intro start n g h1 h2 h3
    unfold State.loadMerge
    rw [h start n 1 h1 h2 h3 (Nat.mod_one _)]
    rfl
  have hinto : ∀ (n : Nat) (ext : Word → Word), va.toNat % 4 + n ≤ 4 → 0 < n → va.toNat % n = 0 →
      s.loadInto base rt off n ext = .next (t.setReg rt (ext (ofBytes be (bytesFrom b (va.toNat % 4) n)))).advance := by
    intro n ext h2 h3 h4
    unfold State.loadInto
    dsimp only
    rw [← hva, h va n n rfl h2 h3 h4]
    rfl
  have e1 : ∀ k, ofBytes be (bytesFrom b k 1) = (0 : BitVec 24) ++ b k := by
    intro k
    cases be <;> exact ofLowBytes_1 _
  have e2 : ∀ k, ofBytes be (bytesFrom b k 2) = (0 : BitVec 16) ++ (if be then b k ++ b (k + 1) else b (k + 1) ++ b k) := by
    intro k
    cases be <;> exact ofLowBytes_2 _ _
  have e4 : ofBytes be (bytesFrom b 0 4) = if be then b 0 ++ b 1 ++ b 2 ++ b 3 else b 3 ++ b 2 ++ b 1 ++ b 0 := by
    cases be <;> exact ofLowBytes_4 _ _ _ _
  have hw := wordBase_mod va
  intro f hf ha
  simp only [loadForms, List.mem_cons, List.not_mem_nil, or_false] at hf
  rcases hf with rfl | rfl | rfl | rfl | rfl | rfl | rfl
  · refine (hinto 1 signByte (by omega) (by omega) ha).trans ?_
    rw [e1, signByte_byte]
  · refine (hinto 1 id (by omega) (by omega) ha).trans ?_
    rw [e1, id]
  · have ha2 : va.toNat % 2 = 0 := ha
    refine (hinto 2 signHalf (by omega) (by omega) ha).trans ?_
    rw [e2, signHalf_half]
  · have ha2 : va.toNat % 2 = 0 := ha
    refine (hinto 2 id (by omega) (by omega) ha).trans ?_
    rw [e2, id]
  · have ha4 : va.toNat % 4 = 0 := ha
    refine (hinto 4 id (by omega) (by omega) ha).trans ?_
    rw [ha4, e4, id]
  · have hx : exec (.lwl base rt off) s =
        s.loadMerge va (leftStart be va) (leftCount be va) rt (mergeLeft (leftCount be va)) := by
      rw [hva, ← hbe]
      rfl
    cases be
    · refine hx.trans ((hmerge (leftStart false va) (leftCount false va) _ (wordBase_wordBase va) ?_ ?_).trans ?_)
      · simp only [leftStart, leftCount, byteIndex, Bool.false_eq_true, if_false]; omega
      · simp only [leftCount, byteIndex, Bool.false_eq_true, if_false]; omega
      · simp only [leftStart, leftCount, byteIndex, Bool.false_eq_true, if_false, hw]
        congr 3
        rcases hk with hk | hk | hk | hk <;> rw [hk]
        · exact mergeLeft_ofLowBytes_1 _ _
        · exact mergeLeft_ofLowBytes_2 _ _ _
        · exact mergeLeft_ofLowBytes_3 _ _ _ _
        · exact mergeLeft_ofLowBytes_4 _ _ _ _ _
    · refine hx.trans ((hmerge (leftStart true va) (leftCount true va) _ rfl ?_ ?_).trans ?_)
      · simp only [leftStart, leftCount, byteIndex, if_true]; omega
      · simp only [leftCount, byteIndex, if_true]; omega
      · simp only [leftStart, leftCount, byteIndex, if_true]
        congr 3
        rcases hk with hk | hk | hk | hk <;> rw [hk]
        · exact mergeLeft_ofLowBytes_4 _ _ _ _ _
        · exact mergeLeft_ofLowBytes_3 _ _ _ _
        · exact mergeLeft_ofLowBytes_2 _ _ _
        · exact mergeLeft_ofLowBytes_1 _ _
  · have hx : exec (.lwr base rt off) s =
        s.loadMerge va (rightStart be va) (rightCount be va) rt (mergeRight (rightCount be va)) := by
      rw [hva, ← hbe]
      rfl
    cases be
    · refine hx.trans ((hmerge (rightStart false va) (rightCount false va) _ rfl ?_ ?_).trans ?_)
      · simp only [rightStart, rightCount, byteIndex, Bool.false_eq_true, if_false]; omega
      · simp only [rightCount, byteIndex, Bool.false_eq_true, if_false]; omega
      · simp only [rightStart, rightCount, byteIndex, Bool.false_eq_true, if_false]
        congr 3
        rcases hk with hk | hk | hk | hk <;> rw [hk]
        · exact mergeRight_ofLowBytes_4 _ _ _ _ _
        · exact mergeRight_ofLowBytes_3 _ _ _ _
        · exact mergeRight_ofLowBytes_2 _ _ _
        · exact mergeRight_ofLowBytes_1 _ _
    · refine hx.trans ((hmerge (rightStart true va) (rightCount true va) _ (wordBase_wordBase va) ?_ ?_).trans ?_)
      · simp only [rightStart, rightCount, byteIndex, if_true]; omega
      · simp only [rightCount, byteIndex, if_true]; omega
      · simp only [rightStart, rightCount, byteIndex, if_true, hw]
        congr 3
        rcases hk with hk | hk | hk | hk <;> rw [hk]
        · exact mergeRight_ofLowBytes_1 _ _
        · exact mergeRight_ofLowBytes_2 _ _ _
        · exact mergeRight_ofLowBytes_3 _ _ _ _
        · exact mergeRight_ofLowBytes_4 _ _ _ _ _

/-! ### Stores -/

/-- What every store does: after the checks of its address it writes bytes that lie in the aligned word of its address, at
the places `storeForms` lists. -/
theorem storeForms_exec {be : Bool} {va : Word} {base rt : BitVec 5} {off : BitVec 16} (hva : va = s.ea base off)
    (hbe : s.cfg.bigEndian = be) :
    ∀ f ∈ storeForms be (s.reg rt) va base rt off, va.toNat % f.1 = 0 → ∃ (start : Word) (bs : List Byte),
      wordBase start = wordBase va ∧ wordBase f.2.2.1 = wordBase va ∧ start.toNat % 4 + bs.length ≤ 4 ∧ 0 < bs.length ∧
      f.2.2.1.toNat ≤ start.toNat ∧
      (∀ j, f.2.2.2 j = if start.toNat - f.2.2.1.toNat ≤ j then bs[j - (start.toNat - f.2.2.1.toNat)]? else none) ∧
      exec f.2.1 s =
        Res.settle (((s.dataAddress va f.1 true).andThen fun p t => t.writeData va start bs (physOfStart p.1 start) p.2).andThen
          fun _ t => .ok t.advance t) := by
  have hk : va.toNat % 4 = 0 ∨ va.toNat % 4 = 1 ∨ va.toNat % 4 = 2 ∨ va.toNat % 4 = 3 := by omega
  have hwb : va &&& 0xFFFFFFFC = wordBase va := rfl
  have hw := wordBase_toNat va
  have hplain : ∀ n, va.toNat % 4 + n ≤ 4 → 0 < n → ∀ j,
      (if j < n then some (byteOf (s.reg rt) (if be then n - 1 - j else j)) else none) =
        if va.toNat - va.toNat ≤ j then (toBytes be n (s.reg rt))[j - (va.toNat - va.toNat)]? else none := by
    intro n _ _ j
    rw [Nat.sub_self, if_pos (Nat.zero_le _), Nat.sub_zero, toBytes_getElem?]
  intro f hf ha
  simp only [storeForms, List.mem_cons, List.not_mem_nil, or_false] at hf
  rcases hf with rfl | rfl | rfl | rfl | rfl
  · refine ⟨va, toBytes be 1 (s.reg rt), rfl, rfl, ?_, by simp, Nat.le_refl _, fun j => ?_, by rw [hva, ← hbe]; rfl⟩
    · simp only [length_toBytes]; omega
    · rw [← hplain 1 (by omega) (by omega) j]
      by_cases h : j < 1
      · have hj : j = 0 := by omega
        subst hj
        simp
      · simp [h]
  · have ha2 : va.toNat % 2 = 0 := ha
    refine ⟨va, toBytes be 2 (s.reg rt), rfl, rfl, ?_, by simp, Nat.le_refl _, hplain 2 (by omega) (by omega),
      by rw [hva, ← hbe]; rfl⟩
    simp only [length_toBytes]; omega
  · have ha4 : va.toNat % 4 = 0 := ha
    refine ⟨va, toBytes be 4 (s.reg rt), rfl, rfl, ?_, by simp, Nat.le_refl _, hplain 4 (by omega) (by omega),
      by rw [hva, ← hbe]; rfl⟩
    simp only [length_toBytes]; omega
  · refine ⟨leftStart be va, toBytes be (leftCount be va) (storeLeft (leftCount be va) (s.reg rt)), ?_,
      wordBase_wordBase va, ?_, ?_, ?_, fun j => ?_, by rw [hva, ← hbe]; rfl⟩
    · cases be
      · exact wordBase_wordBase va
      · rfl
    · cases be <;> simp only [leftStart, leftCount, byteIndex, length_toBytes, Bool.false_eq_true, if_false, if_true, hw] <;>
        omega
    · cases be <;> simp only [leftCount, byteIndex, length_toBytes, Bool.false_eq_true, if_false, if_true] <;> omega
    · cases be <;> simp only [leftStart, hwb, Bool.false_eq_true, if_false, if_true, hw, Nat.le_refl]
      omega
    · simp only [hwb, storeLeft, toBytes_getElem?, byteOf_ushiftRight]
      cases be <;>
        simp only [leftStart, leftCount, byteIndex, swlTable, Bool.false_eq_true, if_false, if_true, hw, Nat.sub_self,
          Nat.zero_le, Nat.sub_zero]
      · by_cases hj : j ≤ va.toNat % 4
        · rw [if_pos hj, if_pos (by omega)]
          congr 2
          omega
        · rw [if_neg hj, if_neg (by omega)]
      · have hd : va.toNat - (va.toNat - va.toNat % 4) = va.toNat % 4 := by omega
        rw [hd]
        by_cases hj : va.toNat % 4 ≤ j
        · by_cases hj4 : j < 4
          · rw [if_pos ⟨hj, hj4⟩, if_pos hj, if_pos (by omega)]
            congr 2
            omega
          · rw [if_neg (by omega), if_pos hj, if_neg (by omega)]
        · rw [if_neg (by omega), if_neg hj]
  · refine ⟨rightStart be va, toBytes be (rightCount be va) (s.reg rt), ?_, wordBase_wordBase va, ?_, ?_, ?_,
      fun j => ?_, by rw [hva, ← hbe]; rfl⟩
    · cases be
      · rfl
      · exact wordBase_wordBase va
    · cases be <;> simp only [rightStart, rightCount, byteIndex, length_toBytes, Bool.false_eq_true, if_false, if_true, hw] <;>
        omega
    · cases be <;> simp only [rightCount, byteIndex, length_toBytes, Bool.false_eq_true, if_false, if_true] <;> omega
    · cases be <;> simp only [rightStart, hwb, Bool.false_eq_true, if_false, if_true, hw, Nat.le_refl]
      omega
    · simp only [hwb, toBytes_getElem?]
      cases be <;>
        simp only [rightStart, rightCount, byteIndex, swrTable, Bool.false_eq_true, if_false, if_true, hw, Nat.sub_self,
          Nat.zero_le, Nat.sub_zero]
      · have hd : va.toNat - (va.toNat - va.toNat % 4) = va.toNat % 4 := by omega
        rw [hd]
        by_cases hj : va.toNat % 4 ≤ j
        · by_cases hj4 : j < 4
          · rw [if_pos ⟨hj, hj4⟩, if_pos hj, if_pos (by omega)]
          · rw [if_neg (by omega), if_pos hj, if_neg (by omega)]
        · rw [if_neg (by omega), if_neg hj]
      · by_cases hj : j ≤ va.toNat % 4
        · rw [if_pos hj, if_pos (by omega)]
          congr 2
        · rw [if_neg hj, if_neg (by omega)]

end Sys2Proof.Machine
end

