-- ==== Sys2Proof/Laws/Cached.lean ====
section
/-! SUPPORT. What a cached access answers: the line of a hit, the fill of a miss, the store that hits or misses, the
scratchpad, the isolated caches, the fetch (20 R170 to R175, R200 to R205). -/

namespace Sys2Proof.Machine

-- Many small theorems: elaborating them one after another keeps the memory of the check low.
set_option Elab.async false

variable {s : State}

/-! ### Addresses of one aligned word -/

/-- Addresses in one aligned word differ in bits 1 and 0 alone. -/
theorem getLsbD_of_wordBase {a b : Word} (h : wordBase a = wordBase b) {i : Nat} (hi : 2 ≤ i) :
    a.getLsbD i = b.getLsbD i := by
  have key : ∀ x : Word, (wordBase x).getLsbD i = x.getLsbD i := by
    intro x
    rw [wordBase_eq_shift]
    by_cases h32 : i < 32
    · simp only [BitVec.getLsbD_shiftLeft, h32, decide_true, Bool.true_and, BitVec.getLsbD_ushiftRight,
        show ¬i < 2 by omega, decide_false, Bool.not_false, show 2 + (i - 2) = i by omega]
    · rw [BitVec.getLsbD_of_ge _ _ (by omega), BitVec.getLsbD_of_ge _ _ (by omega)]
  rw [← key a, ← key b, h]

theorem div4_of_wordBase {a b : Word} (h : wordBase a = wordBase b) : a.toNat / 4 = b.toNat / 4 := by
  have ha := wordBase_toNat a
  have hb := wordBase_toNat b
  rw [h] at ha
  omega

theorem lineOf_congr {a b : Word} (h : wordBase a = wordBase b) (size : Nat) : lineOf size a = lineOf size b := by
  have := div4_of_wordBase h
  have h8 : a.toNat / 32 = b.toNat / 32 := by omega
  unfold lineOf
  rw [h8]

theorem extract_congr {a b : Word} (h : wordBase a = wordBase b) {k n : Nat} (hk : 2 ≤ k) :
    a.extractLsb' k n = b.extractLsb' k n := by
  apply BitVec.eq_of_getLsbD_eq
  intro i hi
  rw [BitVec.getLsbD_extractLsb', BitVec.getLsbD_extractLsb', getLsbD_of_wordBase h (by omega)]

theorem wordBase_mask {a b : Word} (h : wordBase a = wordBase b) (m : Word) : wordBase (a &&& m) = wordBase (b &&& m) := by
  have hx : ∀ x : Word, wordBase (x &&& m) = wordBase x &&& m := by
    intro x
    unfold wordBase
    rw [BitVec.and_assoc, BitVec.and_comm m, ← BitVec.and_assoc]
  rw [hx, hx, h]

/-- The physical address of a byte in the aligned word of an unmapped address. -/
theorem physOfStart_eq {va start : Word} (h : wordBase start = wordBase va) :
    physOfStart (va &&& 0x1FFFFFFF) start = start &&& 0x1FFFFFFF := by
  have h3 : (3 : Word) = BitVec.ofNat 32 3 := rfl
  have hm : ∀ i, i < 2 → (0x1FFFFFFF : Word).getLsbD i = true := by decide
  have h4 : ∀ i, i < 32 → (3 : Word).getLsbD i = decide (i < 2) := by decide
  unfold physOfStart
  apply BitVec.eq_of_getLsbD_eq
  intro i hi
  rw [BitVec.getLsbD_or, BitVec.getLsbD_and, BitVec.getLsbD_and, h4 i hi, wordBase_eq_shift]
  simp only [BitVec.getLsbD_shiftLeft, hi, decide_true, Bool.true_and, BitVec.getLsbD_ushiftRight, BitVec.getLsbD_and]
  by_cases h2 : i < 2
  · simp only [h2, decide_true, Bool.not_true, Bool.false_and, Bool.and_true, Bool.false_or, hm i h2]
  · simp only [h2, decide_false, Bool.not_false, Bool.true_and, Bool.and_false, Bool.or_false,
      show 2 + (i - 2) = i by omega, getLsbD_of_wordBase h (i := i) (by omega)]

theorem CacheSet.hits_congr (c : CacheSet) {size : Nat} {a b p q : Word} (h : wordBase a = wordBase b)
    (hp : wordBase p = wordBase q) : c.hits size a p = c.hits size b q := by
  unfold CacheSet.hits tagBitsOf
  rw [lineOf_congr h, extract_congr hp (by omega)]

theorem Cache.hitWay_congr (c : Cache) {on0 on1 : Bool} {size : Nat} {a b p q : Word} (h : wordBase a = wordBase b)
    (hp : wordBase p = wordBase q) : c.hitWay on0 on1 size a p = c.hitWay on0 on1 size b q := by
  unfold Cache.hitWay
  rw [CacheSet.hits_congr _ h hp, CacheSet.hits_congr _ h hp]

/-- There is no alias in kseg0 (20 R157). -/
theorem aliased_unmapped (size : Nat) (va start : Word) (h : wordBase start = wordBase va) :
    aliased size va (start &&& 0x1FFFFFFF) = false := by
  have hm : (0x1FFFFFFF : Word).getLsbD 12 = true := by decide
  unfold aliased
  rw [BitVec.getLsbD_and, hm, getLsbD_of_wordBase h (by omega)]
  simp

/-- An address of the aligned word lies in the set where the word does. -/
theorem offsetOf_eq {start va : Word} (h : wordBase start = wordBase va) (size : Nat) :
    offsetOf size start = offsetOf size (wordBase va) + start.toNat % 4 := by
  have h1 := wordBase_toNat start
  have h2 := wordBase_mod start
  rw [← h]
  unfold offsetOf
  have h4 : 1024 * 2 ^ size = 4 * (256 * 2 ^ size) := by omega
  generalize 256 * 2 ^ size = n at h4
  rw [h4]
  have e : start.toNat = 4 * (start.toNat / 4) + start.toNat % 4 := by omega
  have e2 : (wordBase start).toNat = 4 * (start.toNat / 4) := by omega
  rw [e2]
  conv => lhs; rw [e]
  rw [Nat.mul_mod_mul_left]
  generalize start.toNat / 4 = x
  have hr : start.toNat % 4 < 4 := by omega
  generalize start.toNat % 4 = r at hr
  by_cases hn : n = 0
  · subst hn; simp
  · have hlt : x % n < n := Nat.mod_lt _ (by omega)
    have hx : 4 * x + r = 4 * n * (x / n) + (4 * (x % n) + r) := by
      have := Nat.div_add_mod x n
      nlinarith
    rw [hx, Nat.mul_add_mod, Nat.mod_eq_of_lt (by omega)]

/-- A part of a range that touches no ICEport register touches none. -/
theorem State.touchesIceport_mono {a b : Word} {n k : Nat} (h : s.touchesIceport a n = false) (h1 : a.toNat ≤ b.toNat)
    (h2 : b.toNat + k ≤ a.toNat + n) : s.touchesIceport b k = false := by
  unfold State.touchesIceport overlaps at *
  simp only [Bool.and_eq_false_iff, decide_eq_false_iff_not] at *
  rcases h with h | h
  · exact .inl h
  · right
    omega

/-! ### Where an access in kseg0 goes (20 R155, R160, R161) -/

theorem unmapped_of_kseg0 {va : Word} (h : va.extractLsb' 29 3 = 0b100#3) : va.extractLsb' 30 2 = 0b10#2 := by
  have h' := congrArg (fun x => BitVec.extractLsb' 1 2 x) h
  rw [show (0b10#2) = BitVec.extractLsb' 1 2 (0b100#3) from rfl]
  rw [← h']
  apply BitVec.eq_of_getLsbD_eq
  intro i hi
  simp only [BitVec.getLsbD_extractLsb', hi, decide_true, Bool.true_and, show 1 + i < 3 by omega]
  congr 1
  omega

theorem inKseg1_of_kseg0 {va : Word} (h : va.extractLsb' 29 3 = 0b100#3) : inKseg1 va = false := by
  simp [inKseg1, h]

theorem State.dScratch_none (h : s.cp0.ccc.getLsbD 4 = false ∧ s.cp0.ccc.getLsbD 3 = false) (va pa : Word) :
    s.dScratch va pa = none := by
  simp only [State.dScratch, Ccc.sr0, Ccc.sr1, h.1, h.2, Bool.and_false, Bool.false_and, Bool.false_eq_true, if_false]

/-- The attribute of kseg0 while a set serves it. -/
theorem State.segAttr_of (h : s.dCaching = true) :
    s.segAttr .load = if Ccc.wb s.cp0.ccc then .writeBack else .writeThrough := by
  have : s.cacheEnabled .load = true := by
    unfold State.dCaching State.dOn0 State.dOn1 at h
    unfold State.cacheEnabled
    simp only [Bool.or_eq_true, Bool.and_eq_true] at h ⊢
    rcases h with h | h
    · exact .inl h.1
    · exact .inr h.1
  simp [State.segAttr, this]

theorem State.segAttr_ne (h : s.dCaching = true) : s.segAttr .load ≠ .uncached := by
  rw [State.segAttr_of h]
  split <;> simp

/-- A load in the word of `va` reads the D-cache. -/
theorem State.load_cached {va start : Word} {align n : Nat} (hc : s.CachedAccess va) (ha : va.toNat % align = 0)
    (hs : wordBase start = wordBase va) :
    s.load va start align n = (s.cachedLoad start (start &&& 0x1FFFFFFF) n).andThen fun bs t =>
      .ok (bs.map (ofBytes t.cfg.bigEndian), (va &&& 0x1FFFFFFF, s.segAttr .load)) t := by
  unfold State.load
  rw [State.dataAddress_quiet ha hc.kernel (unmapped_of_kseg0 hc.segment) hc.noDebug, Res.ok_andThen,
    inKseg1_of_kseg0 hc.segment]
  simp only [Bool.false_eq_true, if_false]
  rw [physOfStart_eq hs]
  unfold State.readData
  rw [hc.noOca, hc.notIsolated, State.dScratch_none hc.noScratch]
  have hal : aliased s.dsize va (start &&& 0x1FFFFFFF#32) = false := aliased_unmapped _ _ _ hs
  simp [State.segAttr_ne hc.serves, hc.serves, hc.built, hal]

/-- A store in the word of `va` goes to the D-cache. -/
theorem State.write_cached {va start : Word} {bs : List Byte} (hc : s.CachedAccess va)
    (hs : wordBase start = wordBase va) :
    s.writeData va start bs (physOfStart (va &&& 0x1FFFFFFF) start) (s.segAttr .load) =
      s.cachedStore start (start &&& 0x1FFFFFFF) bs (Ccc.wb s.cp0.ccc) := by
  rw [physOfStart_eq hs]
  unfold State.writeData
  rw [hc.noOca, hc.notIsolated, State.dScratch_none hc.noScratch]
  have hal : aliased s.dsize va (start &&& 0x1FFFFFFF#32) = false := aliased_unmapped _ _ _ hs
  have hb : decide (s.segAttr .load = .writeBack) = Ccc.wb s.cp0.ccc := by
    rw [State.segAttr_of hc.serves]
    cases Ccc.wb s.cp0.ccc <;> rfl
  simp [State.segAttr_ne hc.serves, hc.serves, hc.built, hal, hb]

/-- The checks of a store's address pass. -/
theorem State.dataAddress_cached {va : Word} {align : Nat} {store : Bool} (hc : s.CachedAccess va)
    (ha : va.toNat % align = 0) :
    s.dataAddress va align store = .ok (va &&& 0x1FFFFFFF, s.segAttr .load) s := by
  rw [State.dataAddress_quiet ha hc.kernel (unmapped_of_kseg0 hc.segment) hc.noDebug, inKseg1_of_kseg0 hc.segment]
  simp

/-! ### Hits and misses (20 R170, R172, R173) -/

/-- The bytes of the aligned word of `va` in set `w` of the D-cache. -/
theorem State.readWay_eq {va start : Word} {n : Nat} {b : Nat → Byte} {c : CacheSet} {size : Nat}
    (hb : b = fun k => Sparse.get 0 c.data (offsetOf size (wordBase va) + k)) (hs : wordBase start = wordBase va) :
    c.readData (offsetOf size start) n = bytesFrom b (start.toNat % 4) n := by
  refine eq_bytesFrom (by simp) fun j hj => ?_
  rw [CacheSet.readData_getElem?, if_pos hj, hb, offsetOf_eq hs, Nat.add_assoc]

/-- A load that hits reads the line and changes nothing. -/
theorem State.load_hit {va start : Word} {align n : Nat} {w : Bool} {b : Nat → Byte} (hc : s.CachedAccess va)
    (hw : s.dcache.hitWay s.dOn0 s.dOn1 s.dsize va (va &&& 0x1FFFFFFF) = some w)
    (hb : b = fun k => Sparse.get 0 (s.dcache.way w).data (offsetOf s.dsize (wordBase va) + k))
    (ha : va.toNat % align = 0) (hs : wordBase start = wordBase va) :
    s.load va start align n = .ok (some (ofBytes s.cfg.bigEndian (bytesFrom b (start.toNat % 4) n)),
      (va &&& 0x1FFFFFFF, s.segAttr .load)) s := by
  rw [State.load_cached hc ha hs]
  unfold State.cachedLoad
  rw [Cache.hitWay_congr _ hs (wordBase_mask hs _), hw]
  simp only [Res.ok_andThen, Option.map_some]
  rw [State.readWay_eq hb hs]

theorem blockBase_toNat (pa : Word) : (blockBase pa).toNat = pa.toNat - pa.toNat % 32 := by
  have hs : blockBase pa = pa >>> 5 <<< 5 := by
    have h3 : (~~~31 : Word) = BitVec.allOnes 32 <<< 5 := by decide
    unfold blockBase
    rw [h3]
    apply BitVec.eq_of_getLsbD_eq
    intro i hi
    simp only [BitVec.getLsbD_and, BitVec.getLsbD_shiftLeft, BitVec.getLsbD_ushiftRight, BitVec.getLsbD_allOnes, hi,
      decide_true, Bool.true_and]
    by_cases h2 : i < 5
    · simp [h2]
    · have hlt : i - 5 < 32 := by omega
      simp [h2, hlt, show 5 + (i - 5) = i by omega]
  rw [hs]
  simp only [BitVec.toNat_shiftLeft, BitVec.toNat_ushiftRight, Nat.shiftLeft_eq, Nat.shiftRight_eq_div_pow]
  have := pa.isLt
  omega

/-- A block does not wrap. -/
theorem blockBase_le (pa : Word) : (blockBase pa).toNat + 32 ≤ 2 ^ 32 := by
  have := blockBase_toNat pa
  have := pa.isLt
  omega

/-- Nor does the line a set holds. -/
theorem CacheSet.lineAddress_le (c : CacheSet) (size line : Nat) : (c.lineAddress size line).toNat + 32 ≤ 2 ^ 32 := by
  have h : (c.lineAddress size line).toNat % 32 = 0 := by
    have e : (c.lineAddress size line).extractLsb' 0 5 = 0#5 := by
      unfold CacheSet.lineAddress lineOffset
      apply BitVec.eq_of_getLsbD_eq
      intro i hi
      rw [BitVec.getLsbD_extractLsb']
      simp only [hi, decide_true, Bool.true_and, Nat.zero_add, BitVec.getLsbD_or, BitVec.getLsbD_zero]
      rw [BitVec.getLsbD_append]
      simp only [show i < 10 by omega, if_true, BitVec.getLsbD_ofNat]
      have : (32 * line).testBit i = false := by
        rw [show 32 * line = 2 ^ 5 * line from rfl, Nat.testBit_two_pow_mul]
        simp; omega
      simp [this]
    have := congrArg BitVec.toNat e
    rw [BitVec.extractLsb'_toNat] at this
    simpa using this
  have := (c.lineAddress size line).isLt
  omega

/-- The place of a byte in its set: its line, and its place in the line. -/
theorem offsetOf_line (size : Nat) (va : Word) : offsetOf size va = 32 * lineOf size va + va.toNat % 32 := by
  unfold offsetOf lineOf
  have h4 : 1024 * 2 ^ size = 32 * (32 * 2 ^ size) := by omega
  rw [h4]
  generalize 32 * 2 ^ size = n
  rw [Nat.mod_mul]
  omega

/-- A filled line holds the word of memory. -/
theorem FilledFrom.word {c x : CacheSet} {line : Nat} {p va : Word} {m : List Host.Cell} {size j : Nat}
    (hf : FilledFrom c x line p m) (hl : line = lineOf size va) (hp : p.toNat % 32 = va.toNat % 32) (hj : j < 4) :
    Sparse.get 0 x.data (offsetOf size (wordBase va) + j) = Memory.read m ((wordBase p).toNat + j) := by
  rw [hf.2]
  have e1 : lineOf size (wordBase va) = lineOf size va := lineOf_congr (wordBase_wordBase va) size
  have e2 := wordBase_toNat va
  have e3 := wordBase_toNat p
  rw [offsetOf_line, e1, hl, blockBase_toNat]
  rw [if_pos (by omega)]
  dsimp only
  rw [if_pos (by omega)]
  simp only [Option.getD_some]
  congr 1
  omega

/-- Filling a line where no transaction fails and nothing waits: a dirty victim goes to memory first. -/
theorem State.dFill_of {va pa : Word} {w : Bool} {line : Nat} {c : CacheSet} {g : Tag} {q : Word} (hi : s.Inv)
    (hw : w = s.dVictim) (hl : line = lineOf s.dsize va) (hc : c = s.dcache.way w) (hg : g = c.tagAt line)
    (hq : q = c.lineAddress s.dsize line) (hb : s.wbuf = []) (he : s.env.pins.errWrite = false) (hr : s.BusReads)
    (hp : g.valid = true → g.dirty = true → s.touchesIceport q 32 = false)
    (hk : s.touchesIceport (blockBase pa) 32 = false) :
    ∃ m x, m = (if g.valid && g.dirty then Memory.writeBytes s.mem q (c.readData (lineOffset line) 32) else s.mem) ∧
      FilledFrom c x line pa m ∧
      s.dFill va pa = .ok false { s with mem := m, dcache := s.dcache.setWay w x } := by
  have hci : c.Inv := by
    rw [hc]
    cases w
    · exact hi.dcache0
    · exact hi.dcache1
  -- what the write-back leaves: the memory `m` and the victim's set with at most its tag changed
  have hu : ∃ c1 : CacheSet, c1.Inv ∧ c1.data = c.data ∧ (∀ l, l ≠ line → c1.tagAt l = c.tagAt l) ∧
      s.writeBackLine w line = .ok () { s with
        mem := if g.valid && g.dirty then Memory.writeBytes s.mem q (c.readData (lineOffset line) 32) else s.mem
        dcache := s.dcache.setWay w c1 } := by
    rw [State.writeBackLine_of hc hg hq he hb hp]
    by_cases hd : (g.valid && g.dirty) = true
    · refine ⟨c.setTag line { g with dirty := false }, hci.setTag _ _, rfl, fun l hl => ?_, ?_⟩
      · rw [hci.tagAfter line { g with dirty := false } l, if_neg hl]
      · rw [if_pos hd, if_pos hd]
    · refine ⟨c, hci, rfl, fun _ _ => rfl, ?_⟩
      rw [if_neg hd, if_neg hd, hc, Cache.setWay_way]
  obtain ⟨c1, h1, hdata, htags, hwb⟩ := hu
  generalize (if g.valid && g.dirty then Memory.writeBytes s.mem q (c.readData (lineOffset line) 32) else s.mem) = m at hwb ⊢
  refine ⟨m, (c1.writeData (lineOffset line) (Memory.readBytes m (blockBase pa) 32)).setTag line
    { addr := pa.extractLsb' 10 22, valid := true, dirty := false }, rfl, ⟨fun l => ?_, fun k => ?_⟩, ?_⟩
  · rw [(h1.writeData _ _).tagAfter line _ l, CacheSet.tagAt_writeData]
    split
    · rfl
    · exact htags l ‹_›
  · rw [CacheSet.setTag_data, h1.dataAfter _ _ k, hdata]
    simp only [Memory.readBytes_getElem? _ _ _ _ (blockBase_le pa)]
    rfl
  · subst hw hl
    unfold State.dFill
    dsimp only
    rw [hwb, Res.ok_andThen, State.orderRead_nil (by exact hb), Res.ok_andThen,
      State.busRead_of (by exact hr.answers) (by exact hr.good) (by exact hk), Res.ok_andThen]
    simp [State.setDWay]

/-- A load that misses fills the victim's line and then reads it. -/
theorem State.load_miss {va start : Word} {align n : Nat} {w : Bool} {m : List Host.Cell} {x : CacheSet} {b : Nat → Byte}
    (hc : s.CachedAccess va) (hn : s.dcache.hitWay s.dOn0 s.dOn1 s.dsize va (va &&& 0x1FFFFFFF) = none)
    (hw : w = s.dVictim)
    (hf : s.dFill start (start &&& 0x1FFFFFFF) = .ok false { s with mem := m, dcache := s.dcache.setWay w x })
    (hb : b = fun k => Sparse.get 0 x.data (offsetOf s.dsize (wordBase va) + k))
    (ha : va.toNat % align = 0) (hs : wordBase start = wordBase va) :
    s.load va start align n = .ok (some (ofBytes s.cfg.bigEndian (bytesFrom b (start.toNat % 4) n)),
      (va &&& 0x1FFFFFFF, s.segAttr .load)) { s with mem := m, dcache := s.dcache.setWay w x } := by
  rw [State.load_cached hc ha hs]
  unfold State.cachedLoad
  rw [Cache.hitWay_congr _ hs (wordBase_mask hs _), hn]
  dsimp only
  rw [hf, Res.ok_andThen]
  simp only [Bool.false_eq_true, if_false, Res.ok_andThen, Option.map_some]
  rw [← hw, Cache.way_setWay, show State.dsize { s with mem := m, dcache := s.dcache.setWay w x } = s.dsize from rfl,
    State.readWay_eq hb hs]

/-! ### Stores (20 R161, R173, R180) -/

theorem Kept.dcacheInv (hi : s.Inv) (w : Bool) : (s.dcache.way w).Inv := by
  cases w
  · exact hi.dcache0
  · exact hi.dcache1

/-- Bytes written in the aligned word of `va`, told from any address `a` of the word at or before them. -/
theorem dataAfter_word {c : CacheSet} {va start a : Word} {bs : List Byte} {f : Nat → Option Byte} {size : Nat}
    (hi : Sparse.wf 0 c.data = true) (hs : wordBase start = wordBase va) (ha : wordBase a = wordBase va)
    (hle : a.toNat ≤ start.toNat)
    (hf : ∀ j, f j = if start.toNat - a.toNat ≤ j then bs[j - (start.toNat - a.toNat)]? else none) :
    DataAfter c (c.writeData (offsetOf size start) bs) (offsetOf size a) f := by
  have h1 := offsetOf_eq hs size
  have h2 := offsetOf_eq ha size
  have d1 := div4_of_wordBase hs
  have d2 := div4_of_wordBase ha
  intro k
  refine (get_writeRam c.data _ bs k hi).trans ?_
  rw [hf]
  by_cases hk : offsetOf size start ≤ k
  · rw [if_pos hk, if_pos (by omega), if_pos (by omega)]
    congr 2
    omega
  · rw [if_neg hk]
    by_cases hk2 : offsetOf size a ≤ k
    · rw [if_pos hk2, if_neg (by omega)]
      rfl
    · rw [if_neg hk2]

theorem State.iceportReg_none {pa : Word} {n : Nat} (h : s.touchesIceport pa n = false) (hn : 0 < n) :
    s.iceportReg pa = none := by
  unfold State.iceportReg
  by_cases hp : s.cfg.iceportPresent = true
  · rw [if_neg]
    intro hc
    rw [hp, Bool.true_and, beq_iff_eq] at hc
    have h1 : (s.cfg.iceportBase ++ (0#4)).toNat = 16 * (pa.toNat / 16) := by
      rw [← hc, BitVec.toNat_append, BitVec.extractLsb'_toNat]
      have := pa.isLt
      have hz : (0#4).toNat = 0 := rfl
      rw [hz, Nat.or_zero, Nat.shiftLeft_eq, Nat.shiftRight_eq_div_pow]
      omega
    unfold State.touchesIceport overlaps at h
    rw [hp, Bool.true_and, Bool.and_eq_false_iff, decide_eq_false_iff_not, decide_eq_false_iff_not] at h
    omega
  · simp [hp]

/-- The one store in the buffer is the one that reaches memory. -/
theorem State.memoryAfter_of {t : State} {pa base : Word} {bs : List Byte} {f : Nat → Option Byte} (hm : t.mem = s.mem)
    (hw : Memory.wf s.mem = true) (hb : t.wbuf = [{ addr := pa, bytes := bs }]) (he : t.env.pins.errWrite = false)
    (hp : t.iceportReg pa = none) (hn : pa.toNat + bs.length ≤ 2 ^ 32) (hle : base.toNat ≤ pa.toNat)
    (hf : ∀ j, f j = if pa.toNat - base.toNat ≤ j then bs[j - (pa.toNat - base.toNat)]? else none) :
    s.MemoryAfter t base f := by
  have hd := State.drainAll_plain he (by rw [hb]; simpa using hp)
  intro a _
  rw [hd]
  simp only [hb, List.foldl_cons, List.foldl_nil, hm]
  rw [Memory.read_writeBytes _ _ _ _ hw hn]
  by_cases hk : pa.toNat ≤ a
  · rw [if_pos hk, if_pos (by omega), hf, if_pos (by omega)]
    congr 2
    omega
  · rw [if_neg hk]
    by_cases hk2 : base.toNat ≤ a
    · rw [if_pos hk2, hf, if_neg (by omega)]
      rfl
    · rw [if_neg hk2]

/-- Masking an address of an unmapped segment keeps its word's order. -/
theorem mask_toNat (a : Word) : (a &&& 0x1FFFFFFF).toNat = a.toNat % 2 ^ 29 := by
  rw [BitVec.toNat_and]
  exact Nat.and_two_pow_sub_one_eq_mod _ 29

/-- A part of an aligned word that touches no ICEport register touches none. -/
theorem State.touchesIceport_word {va start : Word} {n : Nat}
    (h : s.touchesIceport (wordBase (va &&& 0x1FFFFFFF)) 4 = false) (hs : wordBase start = wordBase va)
    (hn : start.toNat % 4 + n ≤ 4) : s.touchesIceport (start &&& 0x1FFFFFFF) n = false := by
  have h1 := wordBase_toNat (start &&& 0x1FFFFFFF)
  rw [← wordBase_mask hs] at h
  have h2 := mask_toNat start
  refine State.touchesIceport_mono h (by omega) (by omega)

/-- Every address of a word fills the same line. -/
theorem State.dFill_congr {va start : Word} (h : wordBase start = wordBase va) :
    s.dFill start (start &&& 0x1FFFFFFF) = s.dFill va (va &&& 0x1FFFFFFF) := by
  have hb : blockBase (start &&& 0x1FFFFFFF) = blockBase (va &&& 0x1FFFFFFF) := by
    apply BitVec.eq_of_toNat_eq
    have := div4_of_wordBase h
    rw [blockBase_toNat, blockBase_toNat, mask_toNat, mask_toNat]
    omega
  unfold State.dFill
  rw [lineOf_congr h, hb, extract_congr (wordBase_mask h _) (by omega)]

/-- A store that hits in write-back mode updates the line and makes it dirty. -/
theorem State.cachedStore_back {va pa : Word} {bs : List Byte} {w : Bool}
    (hw : s.dcache.hitWay s.dOn0 s.dOn1 s.dsize va pa = some w) :
    s.cachedStore va pa bs true = .ok () (s.setDWay w
      (((s.dcache.way w).writeData (offsetOf s.dsize va) bs).setTag (lineOf s.dsize va)
        { (s.dcache.way w).tagAt (lineOf s.dsize va) with dirty := true })) := by
  simp [State.cachedStore, hw, State.storeLine]

/-- A store that hits in write-through mode updates the line and enters the buffer. -/
theorem State.cachedStore_through {va pa : Word} {bs : List Byte} {w : Bool}
    (hw : s.dcache.hitWay s.dOn0 s.dOn1 s.dsize va pa = some w) (hb : s.wbuf = [])
    (hp : s.touchesIceport pa bs.length = false) :
    s.cachedStore va pa bs false = .ok () { s with
      wbuf := [{ addr := pa, bytes := bs }]
      dcache := s.dcache.setWay w ((s.dcache.way w).writeData (offsetOf s.dsize va) bs) } := by
  simp only [State.cachedStore, hw, Bool.false_eq_true, if_false]
  exact State.push_nil (s := s.storeLine w va bs false) hb hp

/-- A store that misses enters the buffer. -/
theorem State.cachedStore_miss {va pa : Word} {bs : List Byte} {back : Bool}
    (hw : s.dcache.hitWay s.dOn0 s.dOn1 s.dsize va pa = none) (hb : s.wbuf = [])
    (hp : s.touchesIceport pa bs.length = false) :
    s.cachedStore va pa bs back = .ok () { s with wbuf := [{ addr := pa, bytes := bs }] } := by
  rw [State.cachedStore, hw]
  exact State.push_nil hb hp

/-! ### Fetches (20 R150, R162, R171) -/

/-- A fetch in kseg0 or kseg1 is not translated. -/
theorem State.translate_fetch {va : Word} {iso : Bool} (hu : s.userMode = false) (hv : va.extractLsb' 30 2 = 0b10#2)
    (ha : aligned 4 va = true) :
    s.translate va .fetch iso = .ok (va &&& 0x1FFFFFFF, if inKseg1 va then .uncached else s.segAttr .fetch) s := by
  simp [State.translate, hu, ha, unmapped, hv]

theorem State.segAttr_fetch (h : s.iCaching = true) : s.segAttr .fetch = .writeThrough := by
  have : s.cacheEnabled .fetch = true := by
    unfold State.iCaching State.iOn0 State.iOn1 at h
    unfold State.cacheEnabled
    simp only [Bool.or_eq_true, Bool.and_eq_true] at h ⊢
    rcases h with h | h
    · exact .inl h
    · exact .inr h.1
  simp [State.segAttr, this]

/-- A fetch in kseg0 reads the I-cache. -/
theorem State.fetchWord_cached {va : Word} (hc : s.CachedFetch va) :
    s.fetchWord va = (s.cachedFetch va (va &&& 0x1FFFFFFF)).andThen fun bs t =>
      .ok (ofBytes t.cfg.bigEndian bs) t := by
  have hsc : s.iScratch va (va &&& 0x1FFFFFFF) = false := by
    have h26 := hc.noScratch
    unfold State.iScratch Ccc.isr1
    rw [h26]; simp
  have hal := aliased_unmapped s.isize va va rfl
  unfold State.fetchWord
  rw [State.translate_fetch hc.kernel (unmapped_of_kseg0 hc.segment) hc.aligned, Res.ok_andThen,
    inKseg1_of_kseg0 hc.segment, State.segAttr_fetch hc.serves]
  dsimp only
  rw [hsc, hal, hc.built, hc.serves]
  simp

/-- Four bytes as a word. -/
theorem ofBytes_word (be : Bool) (b : Nat → Byte) :
    ofBytes be (bytesFrom b 0 4) = if be then b 0 ++ b 1 ++ b 2 ++ b 3 else b 3 ++ b 2 ++ b 1 ++ b 0 := by
  cases be <;> exact ofLowBytes_4 _ _ _ _

/-- Filling an I-cache line where the bus answers. -/
theorem State.iFill_of {va p : Word} {w : Bool} {line : Nat} (hi : s.Inv) (hw : w = s.iVictim line)
    (hl : line = lineOf s.isize va) (hh : s.env.pins.hang = false) (he : s.env.pins.errFetch = false)
    (hk : s.touchesIceport (blockBase p) 32 = false) :
    ∃ x, FilledFrom (s.icache.way w) x line p s.mem ∧ s.iFill va p = .ok false ((s.setIWay w x).touchI line w) := by
  have hci : (s.icache.way w).Inv := by
    cases w
    · exact hi.icache0
    · exact hi.icache1
  refine ⟨((s.icache.way w).writeData (lineOffset line) (Memory.readBytes s.mem (blockBase p) 32)).setTag line
    { addr := p.extractLsb' 10 22, valid := true, dirty := false }, ⟨fun l => ?_, fun k => ?_⟩, ?_⟩
  · rw [(hci.writeData _ _).tagAfter line _ l, CacheSet.tagAt_writeData]
  · rw [CacheSet.setTag_data, hci.dataAfter _ _ k]
    simp only [Memory.readBytes_getElem? _ _ _ _ (blockBase_le p)]
    rfl
  · unfold State.iFill
    dsimp only
    rw [State.busRead_of hh he hk, Res.ok_andThen]
    dsimp only
    rw [← hl, ← hw, if_neg (by simp)]

end Sys2Proof.Machine
end

