-- ==== Sys2Proof/Laws/Encode.lean ====
section
/-! SUPPORT. The fields of the encoder's words: each field lemma unfolds the word form once (30 R221). -/

namespace Sys2Proof

-- Many small theorems: elaborating them one after another keeps the memory of the check low.
set_option Elab.async false

open InstrField

@[simp] theorem iWord_op (o : BitVec 6) (a : BitVec 5) (b : BitVec 5) (c : BitVec 16) : op (iWord o a b c) = o := by
  ext i hi
  simp only [op, iWord, BitVec.getElem_extractLsb', BitVec.getLsbD_append]
  grind

@[simp] theorem iWord_rs (o : BitVec 6) (a : BitVec 5) (b : BitVec 5) (c : BitVec 16) : rs (iWord o a b c) = a := by
  ext i hi
  simp only [rs, iWord, BitVec.getElem_extractLsb', BitVec.getLsbD_append]
  grind

@[simp] theorem iWord_rt (o : BitVec 6) (a : BitVec 5) (b : BitVec 5) (c : BitVec 16) : rt (iWord o a b c) = b := by
  ext i hi
  simp only [rt, iWord, BitVec.getElem_extractLsb', BitVec.getLsbD_append]
  grind

@[simp] theorem iWord_imm (o : BitVec 6) (a : BitVec 5) (b : BitVec 5) (c : BitVec 16) : imm (iWord o a b c) = c := by
  ext i hi
  simp only [imm, iWord, BitVec.getElem_extractLsb', BitVec.getLsbD_append]
  grind

@[simp] theorem iWord_isCofun (o : BitVec 6) (a : BitVec 5) (b : BitVec 5) (c : BitVec 16) : isCofun (iWord o a b c) = a.getLsbD 4 := by
  simp only [isCofun, iWord, BitVec.getLsbD_append]
  grind

@[simp] theorem jWord_op (o : BitVec 6) (t : BitVec 26) : op (jWord o t) = o := by
  ext i hi
  simp only [op, jWord, BitVec.getElem_extractLsb', BitVec.getLsbD_append]
  grind

@[simp] theorem jWord_target (o : BitVec 6) (t : BitVec 26) : target (jWord o t) = t := by
  ext i hi
  simp only [target, jWord, BitVec.getElem_extractLsb', BitVec.getLsbD_append]
  grind

@[simp] theorem rWord_op (o : BitVec 6) (a : BitVec 5) (b : BitVec 5) (c : BitVec 5) (d : BitVec 5) (f : BitVec 6) : op (rWord o a b c d f) = o := by
  ext i hi
  simp only [op, rWord, BitVec.getElem_extractLsb', BitVec.getLsbD_append]
  grind

@[simp] theorem rWord_rs (o : BitVec 6) (a : BitVec 5) (b : BitVec 5) (c : BitVec 5) (d : BitVec 5) (f : BitVec 6) : rs (rWord o a b c d f) = a := by
  ext i hi
  simp only [rs, rWord, BitVec.getElem_extractLsb', BitVec.getLsbD_append]
  grind

@[simp] theorem rWord_rt (o : BitVec 6) (a : BitVec 5) (b : BitVec 5) (c : BitVec 5) (d : BitVec 5) (f : BitVec 6) : rt (rWord o a b c d f) = b := by
  ext i hi
  simp only [rt, rWord, BitVec.getElem_extractLsb', BitVec.getLsbD_append]
  grind

@[simp] theorem rWord_rd (o : BitVec 6) (a : BitVec 5) (b : BitVec 5) (c : BitVec 5) (d : BitVec 5) (f : BitVec 6) : rd (rWord o a b c d f) = c := by
  ext i hi
  simp only [rd, rWord, BitVec.getElem_extractLsb', BitVec.getLsbD_append]
  grind

@[simp] theorem rWord_shamt (o : BitVec 6) (a : BitVec 5) (b : BitVec 5) (c : BitVec 5) (d : BitVec 5) (f : BitVec 6) : shamt (rWord o a b c d f) = d := by
  ext i hi
  simp only [shamt, rWord, BitVec.getElem_extractLsb', BitVec.getLsbD_append]
  grind

@[simp] theorem rWord_funct (o : BitVec 6) (a : BitVec 5) (b : BitVec 5) (c : BitVec 5) (d : BitVec 5) (f : BitVec 6) : funct (rWord o a b c d f) = f := by
  ext i hi
  simp only [funct, rWord, BitVec.getElem_extractLsb', BitVec.getLsbD_append]
  grind

@[simp] theorem rWord_isCofun (o : BitVec 6) (a : BitVec 5) (b : BitVec 5) (c : BitVec 5) (d : BitVec 5) (f : BitVec 6) : isCofun (rWord o a b c d f) = a.getLsbD 4 := by
  simp only [isCofun, rWord, BitVec.getLsbD_append]
  grind

@[simp] theorem codeWord_op (o : BitVec 6) (k : BitVec 20) (f : BitVec 6) : op (codeWord o k f) = o := by
  ext i hi
  simp only [op, codeWord, BitVec.getElem_extractLsb', BitVec.getLsbD_append]
  grind

@[simp] theorem codeWord_code (o : BitVec 6) (k : BitVec 20) (f : BitVec 6) : code (codeWord o k f) = k := by
  ext i hi
  simp only [code, codeWord, BitVec.getElem_extractLsb', BitVec.getLsbD_append]
  grind

@[simp] theorem codeWord_funct (o : BitVec 6) (k : BitVec 20) (f : BitVec 6) : funct (codeWord o k f) = f := by
  ext i hi
  simp only [funct, codeWord, BitVec.getElem_extractLsb', BitVec.getLsbD_append]
  grind

@[simp] theorem moveWord_op (o : BitVec 6) (a : BitVec 5) (b : BitVec 5) (c : BitVec 5) (l : BitVec 11) : op (moveWord o a b c l) = o := by
  ext i hi
  simp only [op, moveWord, BitVec.getElem_extractLsb', BitVec.getLsbD_append]
  grind

@[simp] theorem moveWord_rs (o : BitVec 6) (a : BitVec 5) (b : BitVec 5) (c : BitVec 5) (l : BitVec 11) : rs (moveWord o a b c l) = a := by
  ext i hi
  simp only [rs, moveWord, BitVec.getElem_extractLsb', BitVec.getLsbD_append]
  grind

@[simp] theorem moveWord_rt (o : BitVec 6) (a : BitVec 5) (b : BitVec 5) (c : BitVec 5) (l : BitVec 11) : rt (moveWord o a b c l) = b := by
  ext i hi
  simp only [rt, moveWord, BitVec.getElem_extractLsb', BitVec.getLsbD_append]
  grind

@[simp] theorem moveWord_rd (o : BitVec 6) (a : BitVec 5) (b : BitVec 5) (c : BitVec 5) (l : BitVec 11) : rd (moveWord o a b c l) = c := by
  ext i hi
  simp only [rd, moveWord, BitVec.getElem_extractLsb', BitVec.getLsbD_append]
  grind

@[simp] theorem moveWord_low (o : BitVec 6) (a : BitVec 5) (b : BitVec 5) (c : BitVec 5) (l : BitVec 11) : low (moveWord o a b c l) = l := by
  ext i hi
  simp only [low, moveWord, BitVec.getElem_extractLsb', BitVec.getLsbD_append]
  grind

@[simp] theorem moveWord_isCofun (o : BitVec 6) (a : BitVec 5) (b : BitVec 5) (c : BitVec 5) (l : BitVec 11) : isCofun (moveWord o a b c l) = a.getLsbD 4 := by
  simp only [isCofun, moveWord, BitVec.getLsbD_append]
  grind

@[simp] theorem cofunWord_op (o : BitVec 6) (k : BitVec 25) : op (cofunWord o k) = o := by
  ext i hi
  simp only [op, cofunWord, BitVec.getElem_extractLsb', BitVec.getLsbD_append]
  grind

@[simp] theorem cofunWord_cofun (o : BitVec 6) (k : BitVec 25) : cofun (cofunWord o k) = k := by
  ext i hi
  simp only [cofun, cofunWord, BitVec.getElem_extractLsb', BitVec.getLsbD_append]
  grind

@[simp] theorem cofunWord_isCofun (o : BitVec 6) (k : BitVec 25) : isCofun (cofunWord o k) = true := by
  simp only [isCofun, cofunWord, BitVec.getLsbD_append]
  grind

end Sys2Proof
end

