-- ==== Sys2Proof/Laws/Words.lean ====
section
/-! SUPPORT. The laws of `Within`: which word operations keep reserved bits zero (10 R32). -/

namespace Sys2Proof.Machine

-- Many small theorems: elaborating them one after another keeps the memory of the check low.
set_option Elab.async false

theorem Within.and_mask {m m' : Word} (v : Word) (h : m' &&& ~~~m = 0) : Within m (v &&& m') := by
  rw [Within, BitVec.and_assoc, h]
  simp

theorem Within.and_left {m v : Word} (x : Word) (h : Within m v) : Within m (v &&& x) := by
  rw [Within, BitVec.and_assoc, BitVec.and_comm x, ← BitVec.and_assoc, show v &&& ~~~m = 0 from h]
  simp

theorem Within.or {m v w : Word} (hv : Within m v) (hw : Within m w) : Within m (v ||| w) := by
  rw [Within, BitVec.and_comm, BitVec.and_or_distrib_left, BitVec.and_comm, show v &&& ~~~m = 0 from hv,
    BitVec.and_comm, show w &&& ~~~m = 0 from hw]
  simp

theorem Within.merge {m mask old : Word} (new : Word) (hold : Within m old) (h : mask &&& ~~~m = 0) :
    Within m (merge mask old new) :=
  (hold.and_left _).or (Within.and_mask new h)

theorem Within.flag {m mask : Word} (b : Bool) (h : mask &&& ~~~m = 0) : Within m (flag mask b) := by
  cases b
  · simp [Machine.flag, Within]
  · exact h

theorem Within.zero (m : Word) : Within m 0 := BitVec.zero_and

theorem Within.ite {m v w : Word} (b : Bool) (hv : Within m v) (hw : Within m w) : Within m (if b then v else w) := by
  cases b
  · exact hw
  · exact hv

/-- Five-bit numbers in a register (10 R34, R35). -/
theorem Within.index (i : BitVec 5) : Within 0x1F (i.zeroExtend 32) := by
  revert i; unfold Within; decide

theorem Within.index_p {v : Word} (h : Within 0x1F v) : Within 0x8000001F v := by
  have h2 : (0x1F : Word) &&& ~~~0x8000001F = 0 := by decide
  have h3 : v = v &&& 0x1F := by
    have : v = v &&& (0x1F ||| ~~~0x1F) := by rw [BitVec.or_not_self, BitVec.and_allOnes]
    rw [BitVec.and_or_distrib_left, show v &&& ~~~(0x1F : Word) = 0 from h] at this
    simpa using this
  rw [h3]
  exact Within.and_mask v h2

theorem Within.ofNat {n : Nat} (h : n < 32) : Within 0x1F (BitVec.ofNat 32 n) := by
  have := Within.index (BitVec.ofNat 5 n)
  rwa [show (BitVec.ofNat 5 n).zeroExtend 32 = BitVec.ofNat 32 n by
    apply BitVec.eq_of_toNat_eq; simp; omega] at this

/-- Cause.CE of an exception (10 R52). -/
theorem Within.unit (z : BitVec 2) : Within 0xF000037C (z.zeroExtend 32 <<< 28) := by
  revert z; unfold Within; decide

/-- Cause.ExcCode (10 R52). -/
theorem Within.code (k : BitVec 5) : Within 0xF000037C (k.zeroExtend 32 <<< 2) := by
  revert k; unfold Within; decide

/-- EntryHi of an entry has no reserved bit set (10 R43). -/
theorem Within.entryHi (e : TlbEntry) : Within 0xFFFFF0FF e.hi := by
  unfold Within TlbEntry.hi
  ext i hi
  simp only [BitVec.getElem_and, BitVec.getElem_append, BitVec.getElem_not]
  interval_cases i <;> simp

/-- EntryLo of an entry has no reserved bit set (10 R36). -/
theorem Within.entryLo (e : TlbEntry) : Within 0x03FFFFFF e.lo := by
  unfold Within TlbEntry.lo
  ext i hi
  simp only [BitVec.getElem_and, BitVec.getElem_append, BitVec.getElem_not]
  interval_cases i <;> simp

end Sys2Proof.Machine
end

