-- ==== Sys2Proof/Laws/Kept.lean ====
section
/-! SUPPORT. The invariant and the configuration are kept by the memory side: translation, the caches, the bus and the
write buffer (Tlb, Cache, Bus, Access). -/

namespace Sys2Proof.Machine

-- Many small theorems: elaborating them one after another keeps the memory of the check low.
set_option Elab.async false

/-- The invariant holds and the build is `c`. -/
def Kept (c : Config) (s : State) : Prop := s.Inv ∧ s.cfg = c

variable {c : Config} {s : State}

/-! ### Updates of one field -/

/-- An update of fields the invariant does not read. -/
theorem Kept.congr {t : State} (h : Kept c s) (cfg : t.cfg = s.cfg := by rfl) (mem : t.mem = s.mem := by rfl)
    (icache : t.icache = s.icache := by rfl) (dcache : t.dcache = s.dcache := by rfl) (imru : t.imru = s.imru := by rfl)
    (gpr : t.gpr = s.gpr := by rfl) (cp0 : t.cp0 = s.cp0 := by rfl) (wbuf : t.wbuf = s.wbuf := by rfl)
    (itlb : t.itlb = s.itlb := by rfl) : Kept c t := by
  obtain ⟨h, hc⟩ := h
  refine ⟨⟨mem ▸ h.memory, icache ▸ h.icache0, icache ▸ h.icache1, dcache ▸ h.dcache0, dcache ▸ h.dcache1,
    imru ▸ h.uses, ?_, cp0 ▸ h.cp0, wbuf ▸ h.buffer, itlb ▸ h.itlb⟩, cfg ▸ hc⟩
  simp only [gpr]
  exact h.zero

/-- An update of CP0 registers, which may purge the instruction TLB. -/
theorem Kept.congrCp0 {t : State} (h : Kept c s) (hr : t.cp0.Inv) (cfg : t.cfg = s.cfg := by rfl)
    (mem : t.mem = s.mem := by rfl) (icache : t.icache = s.icache := by rfl) (dcache : t.dcache = s.dcache := by rfl)
    (imru : t.imru = s.imru := by rfl) (gpr : t.gpr = s.gpr := by rfl) (wbuf : t.wbuf = s.wbuf := by rfl)
    (itlb : t.itlb = s.itlb ∨ t.itlb = [] := by first | exact Or.inl rfl | exact Or.inr rfl) : Kept c t := by
  obtain ⟨h, hc⟩ := h
  refine ⟨⟨mem ▸ h.memory, icache ▸ h.icache0, icache ▸ h.icache1, dcache ▸ h.dcache0, dcache ▸ h.dcache1,
    imru ▸ h.uses, ?_, hr, wbuf ▸ h.buffer, ?_⟩, cfg ▸ hc⟩
  · simp only [gpr]
    exact h.zero
  · rcases itlb with e | e
    · exact e ▸ h.itlb
    · simp [e]

theorem Kept.withMem (h : Kept c s) {m : List Host.Cell} (hm : Memory.wf m = true) : Kept c { s with mem := m } :=
  ⟨{ h.1 with memory := hm }, h.2⟩

theorem Kept.withCp0 (h : Kept c s) {r : Cp0} (hr : r.Inv) : Kept c { s with cp0 := r } := ⟨{ h.1 with cp0 := hr }, h.2⟩

theorem Kept.withItlb (h : Kept c s) {l : List TlbEntry} (hl : l.length ≤ 2) : Kept c { s with itlb := l } :=
  ⟨{ h.1 with itlb := hl }, h.2⟩

theorem Kept.withWbuf (h : Kept c s) {l : List WriteEntry} (hl : l.length ≤ 4) : Kept c { s with wbuf := l } :=
  ⟨{ h.1 with buffer := hl }, h.2⟩

theorem Kept.withIcache (h : Kept c s) {a b : CacheSet} (ha : a.Inv) (hb : b.Inv) :
    Kept c { s with icache := { set0 := a, set1 := b } } := ⟨{ h.1 with icache0 := ha, icache1 := hb }, h.2⟩

theorem Kept.withDcache (h : Kept c s) {a b : CacheSet} (ha : a.Inv) (hb : b.Inv) :
    Kept c { s with dcache := { set0 := a, set1 := b } } := ⟨{ h.1 with dcache0 := ha, dcache1 := hb }, h.2⟩

theorem Kept.way (h : Kept c s) (w : Bool) : (s.dcache.way w).Inv := by
  cases w
  · exact h.1.dcache0
  · exact h.1.dcache1

theorem Kept.iway (h : Kept c s) (w : Bool) : (s.icache.way w).Inv := by
  cases w
  · exact h.1.icache0
  · exact h.1.icache1

theorem Kept.setDWay (h : Kept c s) (w : Bool) {x : CacheSet} (hx : x.Inv) : Kept c (s.setDWay w x) := by
  cases w
  · exact ⟨{ h.1 with dcache0 := hx }, h.2⟩
  · exact ⟨{ h.1 with dcache1 := hx }, h.2⟩

theorem Kept.setIWay (h : Kept c s) (w : Bool) {x : CacheSet} (hx : x.Inv) : Kept c (s.setIWay w x) := by
  cases w
  · exact ⟨{ h.1 with icache0 := hx }, h.2⟩
  · exact ⟨{ h.1 with icache1 := hx }, h.2⟩

theorem Kept.touchI (h : Kept c s) (line : Nat) (w : Bool) : Kept c (s.touchI line w) :=
  ⟨{ h.1 with uses := Sparse.wf_set _ _ _ _ h.1.uses }, h.2⟩

theorem Kept.setReg (h : Kept c s) (r : BitVec 5) (v : Word) : Kept c (s.setReg r v) := by
  unfold State.setReg
  split
  · exact h
  · rename_i hr
    refine ⟨{ h.1 with zero := ?_ }, h.2⟩
    have : r.toNat ≠ 0 := fun h0 => hr (BitVec.eq_of_toNat_eq h0)
    have h1 : (s.gpr.set r.toNat v r.isLt)[0] = s.gpr[0] := Vector.getElem_set_ne r.isLt (by decide) this
    simp only [h1]
    exact h.1.zero

/-! ### Translation (20 R150) -/

theorem Kept.touchItlb (h : Kept c s) (e : TlbEntry) : Kept c (s.touchItlb e) := by
  unfold State.touchItlb
  split
  · exact h.withItlb (List.length_take_le _ _)
  · exact h

theorem Kept.useEntry (h : Kept c s) (e : TlbEntry) (va : Word) (k : Access) : (s.useEntry e va k).Sat (Kept c) := by
  unfold State.useEntry
  repeat' split
  all_goals first | exact h | trivial

theorem Kept.jointLookup (h : Kept c s) (va : Word) (k : Access) : (s.jointLookup va k).Sat (Kept c) := by
  unfold State.jointLookup
  split
  · exact h
  · exact h
  · trivial

theorem Kept.heldEntries (h : Kept c s) : Kept c { s with itlb := s.heldEntries } := by
  refine h.withItlb ?_
  unfold State.heldEntries
  split
  · simp
  · exact h.1.itlb

theorem Kept.fetchLookup (h : Kept c s) (va : Word) : (s.fetchLookup va).Sat (Kept c) := by
  unfold State.fetchLookup
  split
  · trivial
  · exact (h.touchItlb _).useEntry _ _ _
  · exact (h.heldEntries.useEntry _ va .fetch).andThen fun r u hu => hu.touchItlb _
  · exact h.heldEntries

theorem Kept.translate (h : Kept c s) (va : Word) (k : Access) (iso : Bool) : (s.translate va k iso).Sat (Kept c) := by
  unfold State.translate
  split
  · exact h
  · split
    · exact h
    · split
      · exact h
      · split
        · split
          · exact h.fetchLookup va
          · exact (h.jointLookup va k).andThen fun e t ht => ht.useEntry e va k
        · exact h

/-! ### The bus and the write buffer (20 R124, R179 to R181) -/

theorem Kept.iceportWrite (h : Kept c s) (r : BitVec 2) (v : Word) : Kept c (s.iceportWrite r v) := by
  unfold State.iceportWrite
  dsimp only
  repeat' split
  all_goals exact h.congr

theorem Kept.iceportRead (h : Kept c s) (r : BitVec 2) : Kept c (s.iceportRead r).2 := by
  unfold State.iceportRead
  dsimp only
  repeat' split
  all_goals exact h.congr

theorem Kept.physWrite (h : Kept c s) (e : WriteEntry) : Kept c (s.physWrite e) := by
  unfold State.physWrite
  split
  · exact h.withMem (Memory.wf_writeBytes _ _ _ h.1.memory)
  · dsimp only
    split
    · exact (h.iceportWrite _ _).iceportWrite _ _
    · exact h.iceportWrite _ _

theorem Kept.physWords (h : Kept c s) (a : Word) (bs : List Byte) : Kept c (s.physWords a bs) := by
  fun_induction State.physWords s a bs with
  | case1 s a b0 b1 b2 b3 bs ih => exact ih (h.physWrite _)
  | case2 => exact h

theorem Kept.physLine (h : Kept c s) (pa : Word) (bs : List Byte) : Kept c (s.physLine pa bs) := by
  unfold State.physLine
  split
  · exact h.physWords _ _
  · exact h.withMem (Memory.wf_writeBytes _ _ _ h.1.memory)

theorem Kept.answerWrite (h : Kept c s) : Kept c s.answerWrite := by
  unfold State.answerWrite
  split
  · exact h.congr
  · exact h

theorem Kept.endWrite (h : Kept c s) {write : State → State} (hw : ∀ t, Kept c t → Kept c (write t)) :
    Kept c (s.endWrite write) := by
  unfold State.endWrite
  split
  · exact hw _ h.answerWrite
  · exact h.answerWrite.congr

theorem Kept.busWrite (h : Kept c s) (e : WriteEntry) : Kept c (s.busWrite e) :=
  h.endWrite fun _ ht => ht.physWrite e

theorem Kept.busLine (h : Kept c s) (pa : Word) (bs : List Byte) : (s.busLine pa bs).Sat (Kept c) := by
  unfold State.busLine
  split
  · trivial
  · exact h.endWrite fun _ ht => ht.physLine pa bs

theorem Kept.busRead (h : Kept c s) (err later : Bool) (pa : Word) (n : Nat) :
    (s.busRead err later pa n).Sat (Kept c) := by
  unfold State.busRead
  split
  · trivial
  · split
    · exact h.congr
    · split
      · split
        · exact h.iceportRead _
        · trivial
      · exact h

theorem Kept.drain (h : Kept c s) (n : Nat) : Kept c (s.drain n) := by
  induction n generalizing s with
  | zero => exact h
  | succ n ih =>
    unfold State.drain
    split
    · exact h
    · rename_i e es hw
      split
      · exact h
      · refine ih (Kept.busWrite (h.withWbuf ?_) e)
        have := h.1.buffer
        rw [hw, List.length_cons] at this
        omega

theorem Kept.awaitDrain (h : Kept c s) (n : Nat) : (s.awaitDrain n).Sat (Kept c) := by
  unfold State.awaitDrain
  dsimp only
  split
  · exact h.drain n
  · trivial

theorem Kept.orderRead (h : Kept c s) (pa : Word) (n : Nat) : (s.orderRead pa n).Sat (Kept c) := h.awaitDrain _

/-- What waiting for the buffer answers: the drained state, with the `n` oldest entries gone; or the wait never ends. -/
theorem State.awaitDrain_eq_ok {n : Nat} {u : Unit} {t : State} (h : s.awaitDrain n = .ok u t) :
    t = s.drain n ∧ t.wbuf.length = s.wbuf.length - n := by
  unfold State.awaitDrain at h
  dsimp only at h
  split at h
  · rename_i hl
    simp only [Res.ok.injEq] at h
    exact ⟨h.2.symm, h.2 ▸ hl⟩
  · cases h

/-- Joining or appending adds at most one entry. -/
theorem appendEntry_length (e : WriteEntry) (l : List WriteEntry) : (appendEntry e l).length ≤ l.length + 1 := by
  induction l with
  | nil => simp [appendEntry]
  | cons a l ih =>
    cases l with
    | nil =>
      simp only [appendEntry]
      split <;> simp
    | cons b l => simpa [appendEntry] using ih

theorem Kept.push (h : Kept c s) (pa : Word) (bs : List Byte) : (s.push pa bs).Sat (Kept c) := by
  unfold State.push
  split
  · trivial
  · dsimp only
    split
    · rename_i hl
      exact h.withWbuf hl
    · have hd := h.awaitDrain 1
      match he : s.awaitDrain 1 with
      | .ok u t =>
        rw [he] at hd
        refine Kept.withWbuf hd (Nat.le_trans (appendEntry_length _ _) ?_)
        have := (State.awaitDrain_eq_ok he).2
        have := h.1.buffer
        omega
      | .raise e t => rw [he] at hd; exact hd
      | .abandon t => rw [he] at hd; exact hd
      | .fault f => trivial
      | .refuse r => trivial

/-! ### Debug status (60 R561, R562) -/

theorem Kept.setDcs (h : Kept c s) {bits : Word} (hb : Within 0xFF80003F bits) : Kept c (s.setDcs bits) :=
  h.withCp0 { h.1.cp0 with dcs := h.1.cp0.dcs.or hb }

theorem Kept.debugPcCheck (h : Kept c s) (va : Word) : Kept c (s.debugPcCheck va) := by
  unfold State.debugPcCheck
  split
  · exact (h.setDcs (show Within 0xFF80003F 0x3 by unfold Within; decide)).congr
  · exact h

theorem Kept.debugDataCheck (h : Kept c s) (va : Word) (store : Bool) : Kept c (s.debugDataCheck va store) := by
  unfold State.debugDataCheck
  cases store
  · simp only [Bool.false_eq_true, ↓reduceIte]
    split
    · exact (h.setDcs (show Within 0xFF80003F 0xD by unfold Within; decide)).congr
    · exact h
  · simp only [↓reduceIte]
    split
    · exact (h.setDcs (show Within 0xFF80003F 0x15 by unfold Within; decide)).congr
    · exact h

/-! ### Loads, stores, fetches (20 R160 to R173, R200) -/

theorem Kept.isolatedStore (h : Kept c s) (mode va start : Word) (bs : List Byte) :
    Kept c (s.isolatedStore mode va start bs) := by
  have hf : ∀ (on : Bool) (x : CacheSet) (size : Nat) (isD : Bool), x.Inv →
      (if on then isolatedStoreSet x size isD mode s.cp0.ccc va start bs else x).Inv := by
    intro on x size isD hx
    split
    · exact hx.isolatedStore _ _ _ _ _ _ _
    · exact hx
  exact (h.withIcache (hf _ _ _ _ h.1.icache0) (hf _ _ _ _ h.1.icache1)).withDcache (hf _ _ _ _ h.1.dcache0)
    (hf _ _ _ _ h.1.dcache1)

theorem Kept.writeBackLine (h : Kept c s) (w : Bool) (line : Nat) : (s.writeBackLine w line).Sat (Kept c) := by
  unfold State.writeBackLine
  dsimp only
  split
  · refine Res.Sat.andThen (h.awaitDrain _) fun _ t ht => Res.Sat.andThen (ht.busLine _ _) fun good u hu => ?_
    refine Kept.setDWay hu w ?_
    split
    · exact (h.way w).setTag _ _
    · exact (h.way w).invalidate _
  · exact h

theorem Kept.dFill (h : Kept c s) (va pa : Word) : (s.dFill va pa).Sat (Kept c) := by
  unfold State.dFill
  refine Res.Sat.andThen (h.writeBackLine _ _) fun _ t ht => Res.Sat.andThen (ht.orderRead _ _) fun _ u hu =>
    Res.Sat.andThen (hu.busRead _ _ _ _) fun r v hv => ?_
  split
  · exact hv.setDWay _ ((hv.way _).invalidate _)
  · exact hv.setDWay _ (((hv.way _).writeData _ _).setTag _ _)

theorem Kept.cachedLoad (h : Kept c s) (va pa : Word) (n : Nat) : (s.cachedLoad va pa n).Sat (Kept c) := by
  unfold State.cachedLoad
  split
  · exact h
  · exact Res.Sat.andThen (h.dFill va pa) fun _ _ ht => ht

theorem Kept.uncachedLoad (h : Kept c s) (pa : Word) (n : Nat) : (s.uncachedLoad pa n).Sat (Kept c) :=
  Res.Sat.andThen (h.orderRead pa n) fun _ _ ht => Res.Sat.andThen (ht.busRead _ _ _ _) fun _ _ hu => hu

theorem Kept.storeLine (h : Kept c s) (w : Bool) (va : Word) (bs : List Byte) (dirty : Bool) :
    Kept c (s.storeLine w va bs dirty) := by
  unfold State.storeLine
  refine h.setDWay w ?_
  split
  · exact ((h.way w).writeData _ _).setTag _ _
  · exact (h.way w).writeData _ _

theorem Kept.cachedStore (h : Kept c s) (va pa : Word) (bs : List Byte) (back : Bool) :
    (s.cachedStore va pa bs back).Sat (Kept c) := by
  unfold State.cachedStore
  split
  · split
    · exact h.storeLine _ _ _ _
    · exact (h.storeLine _ _ _ _).push _ _
  · exact h.push _ _

theorem Kept.dataAddress (h : Kept c s) (va : Word) (align : Nat) (store : Bool) :
    (s.dataAddress va align store).Sat (Kept c) := by
  unfold State.dataAddress
  dsimp only
  split
  · exact h
  · refine Res.Sat.andThen (Res.Sat.inState h) fun r t ht => ?_
    split
    · exact ht.debugDataCheck _ _
    · exact ht.debugDataCheck _ _

theorem Kept.readData (h : Kept c s) (va start : Word) (n : Nat) (pa : Word) (attr : Attr) :
    (s.readData va start n pa attr).Sat (Kept c) := by
  unfold State.readData
  repeat' split
  all_goals first
    | exact h
    | exact h.uncachedLoad _ _
    | exact h.cachedLoad _ _ _
    | trivial

theorem Kept.load (h : Kept c s) (va start : Word) (align n : Nat) : (s.load va start align n).Sat (Kept c) :=
  Res.Sat.andThen (h.dataAddress _ _ _) fun _ _ ht => Res.Sat.andThen (ht.readData _ _ _ _ _) fun _ _ hu => hu

theorem Kept.writeData (h : Kept c s) (va start : Word) (bs : List Byte) (pa : Word) (attr : Attr) :
    (s.writeData va start bs pa attr).Sat (Kept c) := by
  unfold State.writeData
  repeat' split
  all_goals first
    | exact h.congr
    | exact h.isolatedStore _ _ _ _
    | exact h.storeLine _ _ _ _
    | exact h.push _ _
    | exact h.cachedStore _ _ _ _
    | trivial

theorem Kept.store (h : Kept c s) (va start : Word) (align n : Nat) (v : Word) :
    (s.store va start align n v).Sat (Kept c) :=
  Res.Sat.andThen (h.dataAddress _ _ _) fun _ _ ht => ht.writeData _ _ _ _ _

theorem Kept.iFill (h : Kept c s) (va pa : Word) : (s.iFill va pa).Sat (Kept c) := by
  unfold State.iFill
  refine Res.Sat.andThen (h.busRead _ _ _ _) fun r t ht => ?_
  split
  · exact ht.setIWay _ ((ht.iway _).invalidate _)
  · exact (ht.setIWay _ (((ht.iway _).writeData _ _).setTag _ _)).touchI _ _

theorem Kept.cachedFetch (h : Kept c s) (va pa : Word) : (s.cachedFetch va pa).Sat (Kept c) := by
  unfold State.cachedFetch
  dsimp only
  split
  · exact h.touchI _ _
  · refine Res.Sat.andThen (h.iFill va pa) fun e t ht => ?_
    split
    · exact ht
    · exact ht

theorem Kept.uncachedFetch (h : Kept c s) (pa : Word) : (s.uncachedFetch pa).Sat (Kept c) :=
  Res.Sat.andThen (h.busRead _ _ _ _) fun _ _ ht => ht

theorem Kept.fetchWord (h : Kept c s) (va : Word) : (s.fetchWord va).Sat (Kept c) := by
  refine Res.Sat.andThen (h.translate _ _ _) fun p t ht => Res.Sat.andThen ?_ fun bs u hu => hu
  repeat' split
  all_goals first
    | exact ht
    | exact ht.uncachedFetch _
    | exact ht.cachedFetch _ _
    | trivial

theorem Kept.fetch (h : Kept c s) (va : Word) : (s.fetch va).Sat (Kept c) := (h.debugPcCheck va).fetchWord va

theorem Kept.snoop (h : Kept c s) (n : Snoop) : Kept c (s.snoop n) := by
  unfold State.snoop
  dsimp only
  split <;> split
  · exact (h.withIcache (h.1.icache0.snoop _ _) (h.1.icache1.snoop _ _)).withDcache (h.1.dcache0.snoop _ _)
      (h.1.dcache1.snoop _ _)
  · exact h.withIcache (h.1.icache0.snoop _ _) (h.1.icache1.snoop _ _)
  · exact h.withDcache (h.1.dcache0.snoop _ _) (h.1.dcache1.snoop _ _)
  · exact h

theorem Kept.flushI (h : Kept c s) : Kept c s.flushI :=
  h.withIcache (h.1.icache0.flush _ _ _ _) (h.1.icache1.flush _ _ _ _)

theorem Kept.flushD (h : Kept c s) : Kept c s.flushD :=
  h.withDcache (h.1.dcache0.flush _ _ _ _) (h.1.dcache1.flush _ _ _ _)

end Sys2Proof.Machine
end

