-- ==== Sys2Proof/Laws/KeptOps.lean ====
section
/-! SUPPORT. The invariant and the configuration are kept by the shared operations of Machine/Ops.lean and of the
boundary: CP0 writes, exceptions, returns, resets, inputs. -/

namespace Sys2Proof.Machine

-- Many small theorems: elaborating them one after another keeps the memory of the check low.
set_option Elab.async false

variable {c : Config} {s : State}

/-! ### Sequencing -/

theorem Kept.advance (h : Kept c s) : Kept c s.advance := h.congr
theorem Kept.transfer (h : Kept c s) (t : Word) (j : Bool) : Kept c (s.transfer t j) := h.congr
theorem Kept.fallThrough (h : Kept c s) : Kept c s.fallThrough := h.congr
theorem Kept.annul (h : Kept c s) : Kept c s.annul := h.congr
theorem Kept.goTo (h : Kept c s) (t : Word) : Kept c (s.goTo t) := h.congr
theorem Kept.setHiLo (h : Kept c s) (a b : Word) : Kept c (s.setHiLo a b) := h.congr
theorem Kept.ageHazards (h : Kept c s) : Kept c s.ageHazards := h.congr
theorem Kept.endHazards (h : Kept c s) (rs : List HazardReg) : Kept c (s.endHazards rs) := h.congr
theorem Kept.noteHazard (h : Kept c s) (r : HazardReg) (v : Word) (n : Nat) : Kept c (s.noteHazard r v n) := h.congr

theorem Kept.traceTransfer (h : Kept c s) (b : Bool) : Kept c (s.traceTransfer b) := by
  unfold State.traceTransfer
  split
  · exact (h.setDcs (show Within 0xFF80003F 0x21 by unfold Within; decide)).congr
  · exact h

theorem Kept.targetCheck (h : Kept c s) (t : Word) : Kept c (s.targetCheck t) := by
  unfold State.targetCheck
  split
  · exact h.setDcs (show Within 0xFF80003F 0x3 by unfold Within; decide)
  · exact h

/-! ### CP0 (46 R461, R470) -/

theorem Kept.cp0Read (h : Kept c s) (n : BitVec 5) : (s.cp0Read n).Sat (Kept c) := by
  unfold State.cp0Read
  split
  all_goals first
    | exact h
    | (repeat' split) <;> first | exact h | trivial

theorem Kept.ifMmu (h : Kept c s) {f : State → State} (hf : Kept c (f s)) : Kept c (s.ifMmu f) := by
  unfold State.ifMmu
  split
  · exact hf
  · exact h

/-- Every CP0 write leaves reserved bits zero (10 R32). -/
theorem Kept.cp0Write (h : Kept c s) (n : BitVec 5) (v : Word) : Kept c (s.cp0Write n v) := by
  have hm (m m' : Word) (hh : m' &&& ~~~m = 0) : Within m (v &&& m') := Within.and_mask v hh
  have i := h.1.cp0
  unfold State.cp0Write
  split
  · exact h.ifMmu ((h.withCp0 (by exact { i with index := hm _ _ (by decide) })).noteHazard _ _ _)
  · exact h.ifMmu ((h.withCp0 (by exact { i with entryLo := hm _ _ (by decide) })).noteHazard _ _ _)
  · exact h.ifMmu (h.withCp0 (by exact { i with context := i.context.merge _ (by decide) }))
  · exact h.ifMmu ((h.withCp0 (by exact { i with pageMask := hm _ _ (by decide) })).noteHazard _ _ _)
  · exact h.ifMmu (h.withCp0 (by exact { i with wired := hm _ _ (by decide), random := Within.index _ }))
  · exact h.withCp0 (by exact { i with dcs := hm _ _ (by decide) })
  · exact h.withCp0 (by exact { i with })
  · exact h.ifMmu (h.congrCp0 { i with entryHi := hm _ _ (by decide) })
  · exact h.congrCp0 { i with }
  · unfold State.setStatus
    have hst : Within 0xF050FF3F (merge s.statusMask s.cp0.status v) := by
      refine i.status.merge _ ?_
      unfold State.statusMask
      split <;> decide
    dsimp only
    split
    · exact h.withCp0 (by exact { i with status := hst })
    · exact (h.withCp0 (by exact { i with status := hst })).noteHazard _ _ _
  · exact h.withCp0 (by exact { i with cause := i.cause.merge _ (by decide) })
  · exact (h.withCp0 (by exact { i with epc := hm _ _ (by decide) })).noteHazard _ _ _
  · unfold State.setCcc
    dsimp only
    split
    · exact h.withCp0 (by exact { i with ccc := hm _ _ (by decide) })
    · exact (h.withCp0 (by exact { i with ccc := hm _ _ (by decide) })).noteHazard _ _ _
  · exact h.withCp0 (by exact { i with llAddr := hm _ _ (by decide) })
  · exact h.withCp0 (by exact { i with bpc := hm _ _ (by decide) })
  · exact h.withCp0 (by exact { i with })
  · exact h.withCp0 (by exact { i with bpcm := hm _ _ (by decide) })
  · exact h.withCp0 (by exact { i with })
  · exact h.withCp0 (by exact { i with rotate := hm _ _ (by decide) })
  · exact h.withCp0 (by exact { i with cmask := hm _ _ (by decide) })
  · exact (h.withCp0 (by exact { i with errorEpc := hm _ _ (by decide) })).noteHazard _ _ _
  · exact h

theorem Kept.writeTlb (h : Kept c s) (i : BitVec 5) : Kept c (s.writeTlb i) := h.congr

theorem Kept.readEntry (h : Kept c s) (e : TlbEntry) : Kept c (s.readEntry e) :=
  h.congrCp0 { h.1.cp0 with
    pageMask := Within.flag _ (by decide)
    entryHi := Within.entryHi e
    entryLo := Within.entryLo e }

theorem Kept.setIndex (h : Kept c s) {v : Word} (hv : Within 0x8000001F v) : Kept c (s.setIndex v) :=
  (h.endHazards _).withCp0 (by exact { h.1.cp0 with index := hv })

/-! ### Exceptions and returns (60 R540 to R547) -/

theorem Kept.popMode (h : Kept c s) : Kept c s.popMode :=
  h.congrCp0 { h.1.cp0 with status := h.1.cp0.status.merge _ (by decide) }

theorem Kept.leaveLevel (h : Kept c s) : Kept c s.leaveLevel :=
  h.congrCp0 { h.1.cp0 with status := Within.ite _ (h.1.cp0.status.and_left _) (h.1.cp0.status.and_left _) }

theorem Kept.returnFromException (h : Kept c s) : Kept c s.returnFromException := h.leaveLevel.goTo _

theorem Kept.leakHiLo (h : Kept c s) : Kept c s.leakHiLo := by
  unfold State.leakHiLo
  split
  · exact h
  · split
    · exact h.setHiLo _ _
    · exact h

theorem Kept.recordPage (h : Kept c s) (a b : BitVec 20) : Kept c (s.recordPage a b) :=
  h.congrCp0 { h.1.cp0 with
    context := h.1.cp0.context.merge _ (by decide)
    entryHi := h.1.cp0.entryHi.merge _ (by decide)
    entryLo := Within.and_mask _ (by decide) }

theorem Kept.recordAddress (h : Kept c s) (va : Word) : Kept c (s.recordAddress va) := h.withCp0 (by exact { h.1.cp0 with })

theorem Kept.recordBadPage (h : Kept c s) : Kept c s.recordBadPage := by
  unfold State.recordBadPage
  split <;> exact h.recordPage _ _

theorem Kept.record (h : Kept c s) (e : Exc) : Kept c (s.record e) := by
  cases e <;> first
    | exact h
    | exact (h.recordAddress _).recordPage _ _
    | exact (h.recordAddress _).recordBadPage
    | exact h.congr

theorem State.causeOf_within (h : s.Inv) (e : Exc) (bd bt : Bool) : Within 0xF000037C (s.causeOf e bd bt) :=
  ((((Within.flag bd (by decide)).or (Within.flag bt (by decide))).or (Within.unit _)).or
    (h.cp0.cause.and_left _)).or (Within.code _)

theorem State.statusPushed_within (h : s.Inv) : Within 0xF050FF3F s.statusPushed := by
  unfold State.statusPushed
  split
  · exact h.cp0.status.merge _ (by decide)
  · exact h.cp0.status.or (by unfold Within; decide)

theorem State.epcAt_within (h : s.Inv) : Within 0xFFFFFFFC s.epcAt := by
  unfold State.epcAt
  split
  · exact Within.and_mask _ (by decide)
  · exact h.cp0.epc

theorem State.restartInfo_within (h : s.Inv) (e : Exc) : Within 0xFFFFFFFC (s.restartInfo e).1 := by
  unfold State.restartInfo
  dsimp only
  split
  · split
    · exact Within.and_mask _ (by decide)
    · exact State.epcAt_within h
  · exact State.epcAt_within h

/-- Every entry that goes through `State.enter` keeps the invariant. -/
theorem Kept.enter {t : State} (hs : Kept c s) (ht : Kept c t) (target : Word) {cause epc : Word} (o : Outputs)
    (hcause : Within 0xF000037C cause) (hepc : Within 0xFFFFFFFC epc) : Kept c (s.enter t target cause epc o) := by
  have h1 : Kept c (if s.writesEpc then t.endHazards [.epc] else t) := by
    split
    · exact ht.endHazards _
    · exact ht
  exact (h1.goTo target).congrCp0 { ht.1.cp0 with
    cause := hcause
    epc := hepc
    status := State.statusPushed_within hs.1 }

/-- Taking an exception keeps the invariant. -/
theorem Kept.takeException (h : Kept c s) (e : Exc) : Kept c (s.takeException e) :=
  h.enter ((h.leakHiLo).record e) _ _ (State.causeOf_within h.1 _ _ _) (State.restartInfo_within h.1 e)

theorem Kept.takeDebug (h : Kept c s) : Kept c s.takeDebug :=
  h.enter h.leakHiLo _ _ (h.1.cp0.cause.merge _ (by decide)) (State.epcAt_within h.1)

theorem Kept.takeEvi (h : Kept c s) : Kept c s.takeEvi :=
  h.enter h.leakHiLo _ _ (h.1.cp0.cause.merge _ (by decide)) (State.epcAt_within h.1)

theorem State.statusNmi_within (h : s.Inv) : Within 0xF050FF3F s.statusNmi := by
  have hv : Within 0xF050FF3F ((s.cp0.status ||| 0x00500000) &&& 0xFFDFFFFF) :=
    (h.cp0.status.or (by unfold Within; decide)).and_left _
  unfold State.statusNmi
  dsimp only
  split
  · exact hv.merge _ (by decide)
  · exact hv.or (by unfold Within; decide)

theorem Kept.enterReset (h : Kept c s) (ev : Event) : Kept c (s.enterReset ev) :=
  h.congrCp0 { h.1.cp0 with
    errorEpc := Within.and_mask _ (by decide)
    status := State.statusNmi_within h.1 }

/-- Losing stores never lengthens the buffer. -/
theorem keptEntries_length (lost : List Bool) (l : List WriteEntry) : (keptEntries lost l).length ≤ l.length := by
  fun_induction keptEntries lost l with
  | case1 _ _ _ ih => simp only [List.length_cons]; omega
  | case2 _ _ _ ih => simp only [List.length_cons]; omega
  | case3 => exact Nat.le_refl _

theorem Kept.takeNmi (h : Kept c s) : Kept c s.takeNmi := by
  have h1 : Kept c { (s.leakHiLo).enterReset .nmi with nmiPending := false } := ((h.leakHiLo).enterReset .nmi).congr
  exact h1.withWbuf (Nat.le_trans (keptEntries_length _ _) h.1.buffer)

theorem State.coldCp0_inv (s : State) : s.coldCp0.Inv where
  index := Within.and_mask _ (by decide)
  random := Within.index _
  entryLo := Within.and_mask _ (by decide)
  context := Within.and_mask _ (by decide)
  pageMask := Within.and_mask _ (by decide)
  wired := Within.zero _
  dcs := Within.zero _
  entryHi := Within.and_mask _ (by decide)
  status := by
    refine Within.or ?_ (by unfold Within; decide)
    split
    · exact Within.and_mask _ (by decide)
    · exact Within.and_mask _ (by decide)
  cause := Within.and_mask _ (by decide)
  epc := Within.and_mask _ (by decide)
  ccc := Within.zero _
  llAddr := Within.and_mask _ (by decide)
  bpc := Within.and_mask _ (by decide)
  bpcm := Within.and_mask _ (by decide)
  rotate := Within.and_mask _ (by decide)
  cmask := Within.and_mask _ (by decide)
  errorEpc := Within.and_mask _ (by decide)

@[simp] theorem State.takeCold_mem (s : State) : s.takeCold.mem = s.mem := by unfold State.takeCold; rfl
@[simp] theorem State.takeCold_cfg (s : State) : s.takeCold.cfg = s.cfg := by unfold State.takeCold; rfl
@[simp] theorem State.takeCold_cp0 (s : State) : s.takeCold.cp0 = s.coldCp0 := by unfold State.takeCold; rfl
@[simp] theorem State.takeCold_imru (s : State) : s.takeCold.imru = s.resetUses := by dsimp only [State.takeCold]
@[simp] theorem State.takeCold_wbuf (s : State) : s.takeCold.wbuf = [] := by unfold State.takeCold; rfl
@[simp] theorem State.takeCold_icache (s : State) :
    s.takeCold.icache = ⟨s.coldSet 10000 false, s.coldSet 20000 false⟩ := by unfold State.takeCold; rfl
@[simp] theorem State.takeCold_dcache (s : State) :
    s.takeCold.dcache = ⟨s.coldSet 30000 true, s.coldSet 40000 true⟩ := by unfold State.takeCold; rfl
@[simp] theorem State.takeCold_zero (s : State) : s.takeCold.gpr[0] = 0 := by simp [State.takeCold]
theorem State.takeCold_itlb (s : State) : s.takeCold.itlb.length ≤ 2 := by
  unfold State.takeCold
  exact Nat.le_trans (List.length_filter_le _ _) (by simp)

/-- A cold reset gives a state with the invariant, if memory has its form. -/
theorem Kept.takeCold (h : Kept c s) : Kept c s.takeCold := by
  refine ⟨⟨?_, ?_, ?_, ?_, ?_, ?_, ?_, ?_, ?_, ?_⟩, ?_⟩
  · rw [State.takeCold_mem]; exact h.1.memory
  · rw [State.takeCold_icache]; exact s.coldSet_inv _ _
  · rw [State.takeCold_icache]; exact s.coldSet_inv _ _
  · rw [State.takeCold_dcache]; exact s.coldSet_inv _ _
  · rw [State.takeCold_dcache]; exact s.coldSet_inv _ _
  · rw [State.takeCold_imru]; exact s.resetUses_wf
  · exact s.takeCold_zero
  · rw [State.takeCold_cp0]; exact s.coldCp0_inv
  · rw [State.takeCold_wbuf]; exact Nat.zero_le _
  · exact s.takeCold_itlb
  · rw [State.takeCold_cfg]; exact h.2

theorem Kept.physWrites (l : List WriteEntry) (h : Kept c s) : Kept c (l.foldl State.physWrite s) := by
  induction l generalizing s with
  | nil => exact h
  | cons e l ih => exact ih (h.physWrite e)

theorem Kept.takeWarm (h : Kept c s) : Kept c s.takeWarm := by
  have h1 := (Kept.physWrites (keptEntries s.env.choice.lost s.wbuf) (h.withWbuf (l := []) (by simp))).enterReset .warm
  have i0 := s.coldSet_inv 10000 false
  have i1 := s.coldSet_inv 20000 false
  have d0 := s.coldSet_inv 30000 true
  have d1 := s.coldSet_inv 40000 true
  have hu := s.resetUses_wf
  unfold State.takeWarm
  generalize s.coldSet 10000 false = a at i0 ⊢
  generalize s.coldSet 20000 false = b at i1 ⊢
  generalize s.coldSet 30000 true = d at d0 ⊢
  generalize s.coldSet 40000 true = e at d1 ⊢
  generalize s.resetUses = u at hu ⊢
  exact ⟨⟨h1.1.memory, i0, i1, d0, d1, hu, h1.1.zero, h1.1.cp0, h1.1.buffer, h1.1.itlb⟩, h1.2⟩

theorem Kept.levels (h : Kept c s) (cold warm : Bool) : Kept c { s with coldLevel := cold, warmLevel := warm } := h.congr

theorem Kept.warmLevel (h : Kept c s) (warm : Bool) : Kept c { s with warmLevel := warm } := h.congr

/-! ### Ending an instruction -/

theorem Kept.leakNext (h : Kept c s) : Kept c s.leakNext := by
  unfold State.leakNext
  split
  · split
    · split
      · exact h.leaveLevel
      · exact h
    · split
      · exact h.writeTlb _
      · exact h
    · split
      · split
        · exact h.writeTlb _
        · exact h
      · exact h
    · exact h
  · exact h

theorem Kept.raised (h : Kept c s) (e : Exc) : Result.Sat (Kept c) (s.raised e) := (h.leakNext).takeException e

/-- An instruction that ends in `settle` keeps the invariant if its operation does and its ending does. -/
theorem Kept.settleThen {α : Type} {x : Res α} {f : α → State → State} (hx : x.Sat (Kept c))
    (hf : ∀ a t, Kept c t → Kept c (f a t)) :
    Result.Sat (Kept c) (Res.settle (x.andThen fun a t => .ok (f a t) t)) :=
  hx.settleThen hf fun e _ ht => (ht.leakNext).takeException e

theorem Kept.result (h : Kept c s) (r : BitVec 5) (v : Word) : Result.Sat (Kept c) (s.result r v) :=
  (h.setReg r v).advance

theorem Kept.branch (h : Kept c s) (cond : Bool) (t : Word) : Result.Sat (Kept c) (s.branch cond t) := by
  unfold State.branch
  split
  · trivial
  · dsimp only
    split
    · exact ((h.traceTransfer _).targetCheck _).transfer _ _
    · exact ((h.traceTransfer _).targetCheck _).fallThrough

theorem Kept.branchLikely (h : Kept c s) (survives cond : Bool) (t : Word) :
    Result.Sat (Kept c) (s.branchLikely survives cond t) := by
  unfold State.branchLikely
  split
  · trivial
  · dsimp only
    split
    · exact ((h.traceTransfer _).targetCheck _).transfer _ _
    · split
      · exact ((h.traceTransfer _).targetCheck _).fallThrough
      · exact ((h.traceTransfer _).targetCheck _).annul

theorem Kept.jump (h : Kept c s) (t : Word) (j : Bool) : Result.Sat (Kept c) (s.jump t j) := by
  unfold State.jump
  split
  · trivial
  · exact (h.traceTransfer _).transfer _ _

theorem Kept.trapIf (h : Kept c s) (cond : Bool) : Result.Sat (Kept c) (s.trapIf cond) := by
  unfold State.trapIf
  split
  · exact h.raised _
  · exact h.advance

theorem Kept.withCp0Usable (h : Kept c s) {r : Result} (hr : Result.Sat (Kept c) r) :
    Result.Sat (Kept c) (s.withCp0 r) := by
  unfold State.withCp0
  split
  · exact hr
  · exact h.raised _

/-! ### The boundary (60 R511) -/

theorem Kept.finish (h : Kept c s) : Kept c s.finish := (h.drain _).congr

theorem Kept.ageTrace (h : Kept c s) : Kept c s.ageTrace := by
  unfold State.ageTrace
  split
  · exact h
  · exact h.congr
  · exact h.congr

theorem Kept.runRandom (h : Kept c s) : Kept c s.runRandom := by
  unfold State.runRandom
  split
  · exact h.congrCp0 { h.1.cp0 with random := Within.index _ }
  · exact h

theorem Kept.runSnoops (h : Kept c s) : Kept c s.runSnoops := by
  unfold State.runSnoops
  generalize s.env.pins.snoops = l
  induction l generalizing s with
  | nil => exact h
  | cons n l ih => exact ih (h.snoop n)

theorem Kept.runUart (h : Kept c s) : Kept c s.runUart := by
  unfold State.runUart
  split
  · exact h.congr
  · split
    · exact h.congr
    · exact h

theorem Kept.externalWrites (h : Kept c s) : Kept c s.externalWrites := by
  refine h.withMem (Memory.wf_writeCells _ _ ?_)
  split
  · exact Memory.wf_writeCells _ _ h.1.memory
  · exact h.1.memory

theorem Kept.runTimer (h : Kept c s) : Kept c s.runTimer :=
  h.congrCp0 { h.1.cp0 with }

theorem Kept.takeEnv (h : Kept c s) : Kept c s.takeEnv := h.congr

theorem Kept.latchNmi (h : Kept c s) : Kept c s.latchNmi := h.congr

theorem Kept.latchBusError (h : Kept c s) : Kept c s.latchBusError := h.congr

theorem Kept.sample (h : Kept c s) : Kept c s.sample :=
  (((((((h.takeEnv).runTimer).runRandom).externalWrites).runSnoops).runUart).latchNmi).latchBusError

end Sys2Proof.Machine
end

