-- ==== Sys2Proof/Laws/KeptExec.lean ====
section
/-! SUPPORT. The invariant and the configuration are kept by every meaning: one lemma per shared shape, then one case
split over the instructions. -/

namespace Sys2Proof.Machine

-- Many small theorems: elaborating them one after another keeps the memory of the check low.
set_option Elab.async false

variable {c : Config} {s : State}

theorem Kept.loadInto (h : Kept c s) (base rt : BitVec 5) (off : BitVec 16) (n : Nat) (ext : Word → Word) :
    Result.Sat (Kept c) (s.loadInto base rt off n ext) :=
  Kept.settleThen (h.load _ _ _ _) fun _ _ ht => (ht.setReg _ _).advance

theorem Kept.loadMerge (h : Kept c s) (va start : Word) (n : Nat) (rt : BitVec 5) (f : Word → Word → Word) :
    Result.Sat (Kept c) (s.loadMerge va start n rt f) :=
  Kept.settleThen (h.load _ _ _ _) fun _ _ ht => (ht.setReg _ _).advance

theorem Kept.storeFrom (h : Kept c s) (va start : Word) (align n : Nat) (v : Word) :
    Result.Sat (Kept c) (s.storeFrom va start align n v) :=
  Kept.settleThen (h.store _ _ _ _ _) fun _ _ ht => ht.advance

theorem Kept.setLink (h : Kept c s) (pa : Word) (lock : Bool) : Kept c (s.setLink pa lock) :=
  h.congrCp0 { h.1.cp0 with llAddr := Within.and_mask _ (by decide) }

theorem Kept.clearLink (h : Kept c s) : Kept c s.clearLink := h.congr

theorem Kept.execLl (h : Kept c s) (base rt : BitVec 5) (off : BitVec 16) :
    Result.Sat (Kept c) (execLl base rt off s) :=
  Kept.settleThen (h.load _ _ _ _) fun _ _ ht => ((ht.setReg _ _).setLink _ _).advance

theorem Kept.execSc (h : Kept c s) (base rt : BitVec 5) (off : BitVec 16) :
    Result.Sat (Kept c) (execSc base rt off s) := by
  unfold Machine.execSc
  dsimp only
  split
  · exact Kept.settleThen (h.store _ _ _ _ _) fun _ _ ht => (ht.clearLink.setReg _ _).advance
  · exact Kept.settleThen (h.dataAddress _ _ _) fun _ _ ht => (ht.clearLink.setReg _ _).advance

theorem Kept.execSync (h : Kept c s) : Result.Sat (Kept c) (execSync s) :=
  Kept.settleThen (h.awaitDrain _) fun _ _ ht => ht.advance

theorem Kept.trapping (h : Kept c s) (rd : BitVec 5) (o : Bool) (v : Word) :
    Result.Sat (Kept c) (s.trapping rd o v) := by
  unfold State.trapping
  split
  · exact h.raised _
  · exact h.result _ _

theorem Kept.withMdu (h : Kept c s) {r : Result} (hr : Result.Sat (Kept c) r) : Result.Sat (Kept c) (s.withMdu r) := by
  unfold State.withMdu
  split
  · exact hr
  · exact h.raised _

theorem Kept.withMac (h : Kept c s) {r : Result} (hr : Result.Sat (Kept c) r) : Result.Sat (Kept c) (s.withMac r) := by
  unfold State.withMac
  split
  · exact hr
  · exact h.raised _

theorem Kept.hiLoResult (h : Kept c s) (p : BitVec 64) : Result.Sat (Kept c) (s.hiLoResult p) := (h.setHiLo _ _).advance

theorem Kept.linkR31 (h : Kept c s) : Kept c s.linkR31 := h.setReg _ _

/-! ### Coprocessors -/

theorem Kept.copSend (h : Kept c s) (z : BitVec 2) (w : Word) (v : Option Word) : Kept c (s.copSend z w v) := h.congr

theorem Kept.withCop (h : Kept c s) (z : BitVec 2) {r : Result} (hr : Result.Sat (Kept c) r) :
    Result.Sat (Kept c) (s.withCop z r) := by
  unfold State.withCop
  split
  · split
    · exact h.raised _
    · exact hr
  · exact h.raised _

theorem Kept.loadCop (h : Kept c s) (z : BitVec 2) (w : Word) (base : BitVec 5) (off : BitVec 16) :
    Result.Sat (Kept c) (s.loadCop z w base off) :=
  h.withCop z (Kept.settleThen (h.load _ _ _ _) fun _ _ ht => (ht.copSend _ _ _).advance)

theorem Kept.storeCop (h : Kept c s) (z : BitVec 2) (w : Word) (base : BitVec 5) (off : BitVec 16) :
    Result.Sat (Kept c) (s.storeCop z w base off) :=
  h.withCop z (Kept.settleThen (h.store _ _ _ _ _) fun _ _ ht => (ht.copSend _ _ _).advance)

theorem Kept.moveToCop (h : Kept c s) (z : BitVec 2) (w : Word) (rt : BitVec 5) :
    Result.Sat (Kept c) (s.moveToCop z w rt) := h.withCop z (h.copSend _ _ _).advance

theorem Kept.moveFromCop (h : Kept c s) (z : BitVec 2) (w : Word) (rt : BitVec 5) :
    Result.Sat (Kept c) (s.moveFromCop z w rt) := h.withCop z ((h.copSend _ _ _).setReg _ _).advance

theorem Kept.copOperation (h : Kept c s) (z : BitVec 2) (w : Word) :
    Result.Sat (Kept c) (s.copOperation z w) := h.withCop z (h.copSend _ _ _).advance

theorem Kept.copShow (h : Kept c s) (z : BitVec 2) (w : Word) : Kept c (s.copShow z w) := by
  unfold State.copShow
  split
  · exact h
  · exact h.copSend _ _ _

theorem Kept.copBranch (h : Kept c s) (z : BitVec 2) (w : Word) (b : Bool) (off : BitVec 16) :
    Result.Sat (Kept c) (s.copBranch z w b off) := by
  unfold State.copBranch
  split
  · exact (h.copShow _ _).branch _ _
  · exact h.raised _

theorem Kept.copBranchLikely (h : Kept c s) (z : BitVec 2) (w : Word) (b : Bool) (off : BitVec 16) :
    Result.Sat (Kept c) (s.copBranchLikely z w b off) := by
  unfold State.copBranchLikely
  split
  · exact (h.copShow _ _).branchLikely _ _ _
  · exact h.raised _

/-! ### CP0 and the cache instructions -/

theorem Kept.withTlb (h : Kept c s) {r : Result} (hr : Result.Sat (Kept c) r) : Result.Sat (Kept c) (s.withTlb r) := by
  refine h.withCp0Usable ?_
  split
  · exact hr
  · exact h.raised _

theorem Kept.withIndex {f : BitVec 5 → Result} (hf : ∀ i, Result.Sat (Kept c) (f i)) :
    Result.Sat (Kept c) (s.withIndex f) := by
  unfold State.withIndex
  split
  · exact hf _
  · trivial

theorem Kept.withCache (h : Kept c s) {r : Result} (hr : Result.Sat (Kept c) r) :
    Result.Sat (Kept c) (s.withCache r) := by
  unfold State.withCache
  split
  · exact hr
  · exact h.raised _

/-- A hit names an entry that exists (10 R80). -/
theorem tlbHits_index {t : Vector TlbEntry 32} {last : BitVec 5} {asid : BitVec 8} {va : Word} {e : TlbEntry} {i : Nat}
    (h : (e, i) ∈ tlbHits t last asid va) : i < 32 := by
  unfold tlbHits at h
  have h1 := (List.mem_filter.mp h).2
  simp only [Bool.and_eq_true, decide_eq_true_eq] at h1
  have := last.isLt
  omega

theorem Kept.execMfc0 (h : Kept c s) (rt rd : BitVec 5) : Result.Sat (Kept c) (execMfc0 rt rd s) := by
  unfold Machine.execMfc0
  split
  · exact Kept.settleThen (h.cp0Read rd) fun _ _ ht => (ht.setReg _ _).advance
  · exact h.raised _

theorem Kept.execMtc0 (h : Kept c s) (rt rd : BitVec 5) : Result.Sat (Kept c) (execMtc0 rt rd s) := by
  unfold Machine.execMtc0
  split
  · split
    · trivial
    · exact (h.cp0Write _ _).advance
  · exact h.raised _

theorem Kept.execTlbp (h : Kept c s) : Result.Sat (Kept c) (execTlbp s) := by
  refine h.withTlb ?_
  split
  · refine (h.setIndex ?_).advance
    refine Within.or (by unfold Within; decide) ?_
    split
    · exact (Within.index _).index_p
    · exact Within.and_mask _ (by decide)
  · rename_i e i he
    exact (h.setIndex (Within.ofNat (tlbHits_index (he ▸ List.mem_singleton.mpr rfl))).index_p).advance
  · trivial

theorem Kept.execTlbwr (h : Kept c s) : Result.Sat (Kept c) (execTlbwr s) := by
  refine h.withTlb ?_
  split
  · exact h.advance.writeTlb _
  · trivial

theorem Kept.execRfe (h : Kept c s) : Result.Sat (Kept c) (execRfe s) := by
  refine h.withCp0Usable ?_
  split
  · exact h.raised _
  · split
    · trivial
    · exact h.popMode.advance

theorem Kept.execEret (h : Kept c s) : Result.Sat (Kept c) (execEret s) := by
  refine h.withCp0Usable ?_
  split
  · exact h.raised _
  · split
    · trivial
    · exact h.returnFromException

theorem Kept.execWaiti (h : Kept c s) : Result.Sat (Kept c) (execWaiti s) := by
  exact h.withCp0Usable h.advance.congr

theorem Kept.writeBackSet (h : Kept c s) (on w : Bool) (line : Nat) : (s.writeBackSet on w line).Sat (Kept c) := by
  unfold State.writeBackSet
  split
  · exact h.writeBackLine _ _
  · exact h

theorem Kept.writeBackIndex (h : Kept c s) (ea : Word) : (s.writeBackIndex ea).Sat (Kept c) :=
  Res.Sat.andThen (h.writeBackSet _ _ _) fun _ _ ht => ht.writeBackSet _ _ _

theorem Kept.perform (h : Kept c s) (op : CacheOp) : (s.perform op).Sat (Kept c) := by
  cases op with
  | flushI => exact h.flushI
  | flushD => exact h.flushD
  | flushID => exact h.flushI.flushD
  | writeBack ea => exact h.writeBackIndex ea

theorem Kept.cacheOp (h : Kept c s) (op : CacheOp) : Result.Sat (Kept c) (s.cacheOp op) := by
  refine h.withCache ?_
  split
  · exact Kept.settleThen (h.perform op) fun _ _ ht => ht.advance
  · exact h.advance.congr

theorem Kept.performLate (h : Kept c s) (d : DueOp) : Kept c (s.performLate d) := by
  have hp := h.perform d.op
  unfold State.performLate
  split
  · rename_i he
    rw [he] at hp
    exact hp
  all_goals exact h.congr

theorem Kept.settleCache (h : Kept c s) : Kept c s.settleCache := by
  unfold State.settleCache
  split
  · exact h.congr
  · generalize s.cacheDue = l
    have h' : Kept c { s with cacheDue := [] } := h.congr
    generalize { s with cacheDue := [] } = t at h'
    induction l generalizing t with
    | nil => exact h'
    | cons d l ih => exact ih _ (h'.performLate d)

theorem Kept.beginStep (h : Kept c s) : Kept c s.beginStep := ((h.ageTrace).settleCache).congr

theorem Kept.divided (h : Kept c s) (b : Bool) (x y u v : Word) :
    Kept c ((if b then s.setHiLo x y else s.setHiLo u v).advance) := by
  cases b
  · exact (h.setHiLo _ _).advance
  · exact (h.setHiLo _ _).advance

/-- Every instruction keeps the invariant. -/
theorem Kept.exec (h : Kept c s) (i : Instr) : Result.Sat (Kept c) (exec i s) := by
  cases i with
  | lb _ _ _ => exact h.loadInto _ _ _ _ _
  | lh _ _ _ => exact h.loadInto _ _ _ _ _
  | lwl _ _ _ => exact h.loadMerge _ _ _ _ _
  | lw _ _ _ => exact h.loadInto _ _ _ _ _
  | lbu _ _ _ => exact h.loadInto _ _ _ _ _
  | lhu _ _ _ => exact h.loadInto _ _ _ _ _
  | lwr _ _ _ => exact h.loadMerge _ _ _ _ _
  | sb _ _ _ => exact h.storeFrom _ _ _ _ _
  | sh _ _ _ => exact h.storeFrom _ _ _ _ _
  | swl _ _ _ => exact h.storeFrom _ _ _ _ _
  | sw _ _ _ => exact h.storeFrom _ _ _ _ _
  | swr _ _ _ => exact h.storeFrom _ _ _ _ _
  | ll _ _ _ => exact h.execLl _ _ _
  | sc _ _ _ => exact h.execSc _ _ _
  | sync => exact h.execSync
  | addi _ _ _ => exact h.trapping _ _ _
  | addiu _ _ _ => exact h.result _ _
  | slti _ _ _ => exact h.result _ _
  | sltiu _ _ _ => exact h.result _ _
  | andi _ _ _ => exact h.result _ _
  | ori _ _ _ => exact h.result _ _
  | xori _ _ _ => exact h.result _ _
  | lui _ _ => exact h.result _ _
  | add _ _ _ => exact h.trapping _ _ _
  | addu _ _ _ => exact h.result _ _
  | sub _ _ _ => exact h.trapping _ _ _
  | subu _ _ _ => exact h.result _ _
  | slt _ _ _ => exact h.result _ _
  | sltu _ _ _ => exact h.result _ _
  | and _ _ _ => exact h.result _ _
  | or _ _ _ => exact h.result _ _
  | xor _ _ _ => exact h.result _ _
  | nor _ _ _ => exact h.result _ _
  | sll _ _ _ => exact h.result _ _
  | srl _ _ _ => exact h.result _ _
  | sra _ _ _ => exact h.result _ _
  | sllv _ _ _ => exact h.result _ _
  | srlv _ _ _ => exact h.result _ _
  | srav _ _ _ => exact h.result _ _
  | mult _ _ => exact h.withMdu (h.hiLoResult _)
  | multu _ _ => exact h.withMdu (h.hiLoResult _)
  | div _ _ => exact h.withMdu (h.divided _ _ _ _ _)
  | divu _ _ => exact h.withMdu (h.divided _ _ _ _ _)
  | mfhi _ => exact h.withMdu (h.result _ _)
  | mflo _ => exact h.withMdu (h.result _ _)
  | mthi _ => exact h.withMdu (h.setHiLo _ _).advance
  | mtlo _ => exact h.withMdu (h.setHiLo _ _).advance
  | addciu _ _ _ => exact h.result _ _
  | ffs _ _ => exact h.result _ _
  | ffc _ _ => exact h.result _ _
  | min _ _ _ => exact h.result _ _
  | max _ _ _ => exact h.result _ _
  | selsr _ _ _ => exact h.result _ _
  | selsl _ _ _ => exact h.result _ _
  | madd _ _ => exact h.withMac (h.hiLoResult _)
  | maddu _ _ => exact h.withMac (h.hiLoResult _)
  | msub _ _ => exact h.withMac (h.hiLoResult _)
  | msubu _ _ => exact h.withMac (h.hiLoResult _)
  | j _ => exact h.jump _ _
  | jal _ => exact h.linkR31.jump _ _
  | jr _ => exact h.jump _ _
  | jalr _ _ => exact (h.setReg _ _).jump _ _
  | beq _ _ _ => exact h.branch _ _
  | bne _ _ _ => exact h.branch _ _
  | beql _ _ _ => exact h.branchLikely _ _ _
  | bnel _ _ _ => exact h.branchLikely _ _ _
  | blez _ _ => exact h.branch _ _
  | bgtz _ _ => exact h.branch _ _
  | blezl _ _ => exact h.branchLikely _ _ _
  | bgtzl _ _ => exact h.branchLikely _ _ _
  | bltz _ _ => exact h.branch _ _
  | bgez _ _ => exact h.branch _ _
  | bltzl _ _ => exact h.branchLikely _ _ _
  | bgezl _ _ => exact h.branchLikely _ _ _
  | bltzal _ _ => exact h.linkR31.branch _ _
  | bgezal _ _ => exact h.linkR31.branch _ _
  | bltzall _ _ => exact h.linkR31.branchLikely _ _ _
  | bgezall _ _ => exact h.linkR31.branchLikely _ _ _
  | tge _ _ => exact h.trapIf _
  | tgeu _ _ => exact h.trapIf _
  | tlt _ _ => exact h.trapIf _
  | tltu _ _ => exact h.trapIf _
  | teq _ _ => exact h.trapIf _
  | tne _ _ => exact h.trapIf _
  | tgei _ _ => exact h.trapIf _
  | tgeiu _ _ => exact h.trapIf _
  | tlti _ _ => exact h.trapIf _
  | tltiu _ _ => exact h.trapIf _
  | teqi _ _ => exact h.trapIf _
  | tnei _ _ => exact h.trapIf _
  | syscall _ => exact h.raised _
  | brk _ => exact h.raised _
  | lwc1 _ _ _ => exact h.loadCop _ _ _ _
  | swc1 _ _ _ => exact h.storeCop _ _ _ _
  | mtc1 _ _ _ => exact h.moveToCop _ _ _
  | mfc1 _ _ _ => exact h.moveFromCop _ _ _
  | ctc1 _ _ _ => exact h.moveToCop _ _ _
  | cfc1 _ _ _ => exact h.moveFromCop _ _ _
  | cop1 _ => exact h.copOperation _ _
  | lwc2 _ _ _ => exact h.loadCop _ _ _ _
  | swc2 _ _ _ => exact h.storeCop _ _ _ _
  | mtc2 _ _ _ => exact h.moveToCop _ _ _
  | mfc2 _ _ _ => exact h.moveFromCop _ _ _
  | ctc2 _ _ _ => exact h.moveToCop _ _ _
  | cfc2 _ _ _ => exact h.moveFromCop _ _ _
  | cop2 _ => exact h.copOperation _ _
  | lwc3 _ _ _ => exact h.loadCop _ _ _ _
  | swc3 _ _ _ => exact h.storeCop _ _ _ _
  | mtc3 _ _ _ => exact h.moveToCop _ _ _
  | mfc3 _ _ _ => exact h.moveFromCop _ _ _
  | ctc3 _ _ _ => exact h.moveToCop _ _ _
  | cfc3 _ _ _ => exact h.moveFromCop _ _ _
  | cop3 _ => exact h.copOperation _ _
  | bc0f _ => exact h.copBranch _ _ _ _
  | bc0t _ => exact h.copBranch _ _ _ _
  | bc0fl _ => exact h.copBranchLikely _ _ _ _
  | bc0tl _ => exact h.copBranchLikely _ _ _ _
  | bc1f _ => exact h.copBranch _ _ _ _
  | bc1t _ => exact h.copBranch _ _ _ _
  | bc1fl _ => exact h.copBranchLikely _ _ _ _
  | bc1tl _ => exact h.copBranchLikely _ _ _ _
  | bc2f _ => exact h.copBranch _ _ _ _
  | bc2t _ => exact h.copBranch _ _ _ _
  | bc2fl _ => exact h.copBranchLikely _ _ _ _
  | bc2tl _ => exact h.copBranchLikely _ _ _ _
  | bc3f _ => exact h.copBranch _ _ _ _
  | bc3t _ => exact h.copBranch _ _ _ _
  | bc3fl _ => exact h.copBranchLikely _ _ _ _
  | bc3tl _ => exact h.copBranchLikely _ _ _ _
  | mtc0 _ _ => exact h.execMtc0 _ _
  | mfc0 _ _ => exact h.execMfc0 _ _
  | tlbr => exact h.withTlb (Kept.withIndex fun _ => (h.readEntry _).advance.congr)
  | tlbwi => exact h.withTlb (Kept.withIndex fun _ => h.advance.writeTlb _)
  | tlbwr => exact h.execTlbwr
  | tlbp => exact h.execTlbp
  | rfe => exact h.execRfe
  | eret => exact h.execEret
  | waiti => exact h.execWaiti
  | flushi => exact h.cacheOp _
  | flushd => exact h.cacheOp _
  | flushid => exact h.cacheOp _
  | wb _ _ => exact h.cacheOp _

/-- So does every word outside the opcode table. -/
theorem Kept.execUnlisted (h : Kept c s) (d : Decoded) : Result.Sat (Kept c) (execUnlisted d s) := by
  unfold Machine.execUnlisted
  split
  · exact h.raised _
  · exact h.raised _
  · split
    · exact h.raised _
    · exact h.raised _
  · exact h.withCp0Usable h.advance
  · exact h.withCp0Usable (h.result _ _)
  · exact h.withCp0Usable h.advance
  · exact h.withCache h.advance
  · refine h.withCache ?_
    split
    · exact Kept.settleThen (h.writeBackIndex _) fun _ _ ht => ht.advance
    · exact h.advance

end Sys2Proof.Machine
end

