-- ==== Sys2Proof/Laws/PerInstr.lean ====
section
/-! SUPPORT. One statement about every instruction, made per instruction: its encoding carries the bits its row of
spec/opcode_table.json fixes (30 R253). -/

namespace Sys2Proof

open InstrField

set_option Elab.async false

theorem mask_op (w : Word) : w &&& 0xFC000000 = op w ++ (0#26) := by
  ext i hi
  simp only [op, BitVec.getElem_and, BitVec.getElem_append, BitVec.getElem_extractLsb']
  interval_cases i <;> simp [← BitVec.getLsbD_eq_getElem]

theorem mask_op_funct (w : Word) : w &&& 0xFC00003F = op w ++ (0#20) ++ funct w := by
  ext i hi
  simp only [op, funct, BitVec.getElem_and, BitVec.getElem_append, BitVec.getElem_extractLsb']
  interval_cases i <;> simp [← BitVec.getLsbD_eq_getElem]

theorem mask_op_rt (w : Word) : w &&& 0xFC1F0000 = op w ++ (0#5) ++ rt w ++ (0#16) := by
  ext i hi
  simp only [op, rt, BitVec.getElem_and, BitVec.getElem_append, BitVec.getElem_extractLsb']
  interval_cases i <;> simp [← BitVec.getLsbD_eq_getElem]

theorem mask_op_rs (w : Word) : w &&& 0xFFE00000 = op w ++ rs w ++ (0#21) := by
  ext i hi
  simp only [op, rs, BitVec.getElem_and, BitVec.getElem_append, BitVec.getElem_extractLsb']
  interval_cases i <;> simp [← BitVec.getLsbD_eq_getElem]

theorem mask_op_cofun (w : Word) : w &&& 0xFE000000 = op w ++ BitVec.ofBool (isCofun w) ++ (0#25) := by
  ext i hi
  simp only [op, isCofun, BitVec.getElem_and, BitVec.getElem_append, BitVec.getElem_extractLsb']
  interval_cases i <;> simp [← BitVec.getLsbD_eq_getElem]

theorem mask_op_rs_rt (w : Word) : w &&& 0xFFFF0000 = op w ++ rs w ++ rt w ++ (0#16) := by
  ext i hi
  simp only [op, rs, rt, BitVec.getElem_and, BitVec.getElem_append, BitVec.getElem_extractLsb']
  interval_cases i <;> simp [← BitVec.getLsbD_eq_getElem]

theorem mask_op_cofun_funct (w : Word) : w &&& 0xFE00003F = op w ++ BitVec.ofBool (isCofun w) ++ (0#19) ++ funct w := by
  ext i hi
  simp only [op, isCofun, funct, BitVec.getElem_and, BitVec.getElem_append, BitVec.getElem_extractLsb']
  interval_cases i <;> simp [← BitVec.getLsbD_eq_getElem]

namespace Laws.RowBits

/-- The encoding of `i` has its row's value in the bits the row fixes. -/
def Statement (i : Instr) : Prop := encode i &&& i.rowMask = i.rowMatch

theorem lb (base : BitVec 5) (rt : BitVec 5) (offset : BitVec 16) : Statement (.lb base rt offset) := by
  simp only [Statement, encode, Instr.rowMask, Instr.rowMatch, mask_op]
  simp

theorem lh (base : BitVec 5) (rt : BitVec 5) (offset : BitVec 16) : Statement (.lh base rt offset) := by
  simp only [Statement, encode, Instr.rowMask, Instr.rowMatch, mask_op]
  simp

theorem lwl (base : BitVec 5) (rt : BitVec 5) (offset : BitVec 16) : Statement (.lwl base rt offset) := by
  simp only [Statement, encode, Instr.rowMask, Instr.rowMatch, mask_op]
  simp

theorem lw (base : BitVec 5) (rt : BitVec 5) (offset : BitVec 16) : Statement (.lw base rt offset) := by
  simp only [Statement, encode, Instr.rowMask, Instr.rowMatch, mask_op]
  simp

theorem lbu (base : BitVec 5) (rt : BitVec 5) (offset : BitVec 16) : Statement (.lbu base rt offset) := by
  simp only [Statement, encode, Instr.rowMask, Instr.rowMatch, mask_op]
  simp

theorem lhu (base : BitVec 5) (rt : BitVec 5) (offset : BitVec 16) : Statement (.lhu base rt offset) := by
  simp only [Statement, encode, Instr.rowMask, Instr.rowMatch, mask_op]
  simp

theorem lwr (base : BitVec 5) (rt : BitVec 5) (offset : BitVec 16) : Statement (.lwr base rt offset) := by
  simp only [Statement, encode, Instr.rowMask, Instr.rowMatch, mask_op]
  simp

theorem sb (base : BitVec 5) (rt : BitVec 5) (offset : BitVec 16) : Statement (.sb base rt offset) := by
  simp only [Statement, encode, Instr.rowMask, Instr.rowMatch, mask_op]
  simp

theorem sh (base : BitVec 5) (rt : BitVec 5) (offset : BitVec 16) : Statement (.sh base rt offset) := by
  simp only [Statement, encode, Instr.rowMask, Instr.rowMatch, mask_op]
  simp

theorem swl (base : BitVec 5) (rt : BitVec 5) (offset : BitVec 16) : Statement (.swl base rt offset) := by
  simp only [Statement, encode, Instr.rowMask, Instr.rowMatch, mask_op]
  simp

theorem sw (base : BitVec 5) (rt : BitVec 5) (offset : BitVec 16) : Statement (.sw base rt offset) := by
  simp only [Statement, encode, Instr.rowMask, Instr.rowMatch, mask_op]
  simp

theorem swr (base : BitVec 5) (rt : BitVec 5) (offset : BitVec 16) : Statement (.swr base rt offset) := by
  simp only [Statement, encode, Instr.rowMask, Instr.rowMatch, mask_op]
  simp

theorem ll (base : BitVec 5) (rt : BitVec 5) (offset : BitVec 16) : Statement (.ll base rt offset) := by
  simp only [Statement, encode, Instr.rowMask, Instr.rowMatch, mask_op]
  simp

theorem sc (base : BitVec 5) (rt : BitVec 5) (offset : BitVec 16) : Statement (.sc base rt offset) := by
  simp only [Statement, encode, Instr.rowMask, Instr.rowMatch, mask_op]
  simp

theorem sync : Statement (.sync) := by
  simp only [Statement, encode, Instr.rowMask, Instr.rowMatch, mask_op_funct]
  simp

theorem addi (rs : BitVec 5) (rt : BitVec 5) (imm : BitVec 16) : Statement (.addi rs rt imm) := by
  simp only [Statement, encode, Instr.rowMask, Instr.rowMatch, mask_op]
  simp

theorem addiu (rs : BitVec 5) (rt : BitVec 5) (imm : BitVec 16) : Statement (.addiu rs rt imm) := by
  simp only [Statement, encode, Instr.rowMask, Instr.rowMatch, mask_op]
  simp

theorem slti (rs : BitVec 5) (rt : BitVec 5) (imm : BitVec 16) : Statement (.slti rs rt imm) := by
  simp only [Statement, encode, Instr.rowMask, Instr.rowMatch, mask_op]
  simp

theorem sltiu (rs : BitVec 5) (rt : BitVec 5) (imm : BitVec 16) : Statement (.sltiu rs rt imm) := by
  simp only [Statement, encode, Instr.rowMask, Instr.rowMatch, mask_op]
  simp

theorem andi (rs : BitVec 5) (rt : BitVec 5) (imm : BitVec 16) : Statement (.andi rs rt imm) := by
  simp only [Statement, encode, Instr.rowMask, Instr.rowMatch, mask_op]
  simp

theorem ori (rs : BitVec 5) (rt : BitVec 5) (imm : BitVec 16) : Statement (.ori rs rt imm) := by
  simp only [Statement, encode, Instr.rowMask, Instr.rowMatch, mask_op]
  simp

theorem xori (rs : BitVec 5) (rt : BitVec 5) (imm : BitVec 16) : Statement (.xori rs rt imm) := by
  simp only [Statement, encode, Instr.rowMask, Instr.rowMatch, mask_op]
  simp

theorem lui (rt : BitVec 5) (imm : BitVec 16) : Statement (.lui rt imm) := by
  simp only [Statement, encode, Instr.rowMask, Instr.rowMatch, mask_op]
  simp

theorem add (rs : BitVec 5) (rt : BitVec 5) (rd : BitVec 5) : Statement (.add rs rt rd) := by
  simp only [Statement, encode, Instr.rowMask, Instr.rowMatch, mask_op_funct]
  simp

theorem addu (rs : BitVec 5) (rt : BitVec 5) (rd : BitVec 5) : Statement (.addu rs rt rd) := by
  simp only [Statement, encode, Instr.rowMask, Instr.rowMatch, mask_op_funct]
  simp

theorem sub (rs : BitVec 5) (rt : BitVec 5) (rd : BitVec 5) : Statement (.sub rs rt rd) := by
  simp only [Statement, encode, Instr.rowMask, Instr.rowMatch, mask_op_funct]
  simp

theorem subu (rs : BitVec 5) (rt : BitVec 5) (rd : BitVec 5) : Statement (.subu rs rt rd) := by
  simp only [Statement, encode, Instr.rowMask, Instr.rowMatch, mask_op_funct]
  simp

theorem slt (rs : BitVec 5) (rt : BitVec 5) (rd : BitVec 5) : Statement (.slt rs rt rd) := by
  simp only [Statement, encode, Instr.rowMask, Instr.rowMatch, mask_op_funct]
  simp

theorem sltu (rs : BitVec 5) (rt : BitVec 5) (rd : BitVec 5) : Statement (.sltu rs rt rd) := by
  simp only [Statement, encode, Instr.rowMask, Instr.rowMatch, mask_op_funct]
  simp

theorem and (rs : BitVec 5) (rt : BitVec 5) (rd : BitVec 5) : Statement (.and rs rt rd) := by
  simp only [Statement, encode, Instr.rowMask, Instr.rowMatch, mask_op_funct]
  simp

theorem or (rs : BitVec 5) (rt : BitVec 5) (rd : BitVec 5) : Statement (.or rs rt rd) := by
  simp only [Statement, encode, Instr.rowMask, Instr.rowMatch, mask_op_funct]
  simp

theorem xor (rs : BitVec 5) (rt : BitVec 5) (rd : BitVec 5) : Statement (.xor rs rt rd) := by
  simp only [Statement, encode, Instr.rowMask, Instr.rowMatch, mask_op_funct]
  simp

theorem nor (rs : BitVec 5) (rt : BitVec 5) (rd : BitVec 5) : Statement (.nor rs rt rd) := by
  simp only [Statement, encode, Instr.rowMask, Instr.rowMatch, mask_op_funct]
  simp

theorem sll (rt : BitVec 5) (rd : BitVec 5) (shamt : BitVec 5) : Statement (.sll rt rd shamt) := by
  simp only [Statement, encode, Instr.rowMask, Instr.rowMatch, mask_op_funct]
  simp

theorem srl (rt : BitVec 5) (rd : BitVec 5) (shamt : BitVec 5) : Statement (.srl rt rd shamt) := by
  simp only [Statement, encode, Instr.rowMask, Instr.rowMatch, mask_op_funct]
  simp

theorem sra (rt : BitVec 5) (rd : BitVec 5) (shamt : BitVec 5) : Statement (.sra rt rd shamt) := by
  simp only [Statement, encode, Instr.rowMask, Instr.rowMatch, mask_op_funct]
  simp

theorem sllv (rs : BitVec 5) (rt : BitVec 5) (rd : BitVec 5) : Statement (.sllv rs rt rd) := by
  simp only [Statement, encode, Instr.rowMask, Instr.rowMatch, mask_op_funct]
  simp

theorem srlv (rs : BitVec 5) (rt : BitVec 5) (rd : BitVec 5) : Statement (.srlv rs rt rd) := by
  simp only [Statement, encode, Instr.rowMask, Instr.rowMatch, mask_op_funct]
  simp

theorem srav (rs : BitVec 5) (rt : BitVec 5) (rd : BitVec 5) : Statement (.srav rs rt rd) := by
  simp only [Statement, encode, Instr.rowMask, Instr.rowMatch, mask_op_funct]
  simp

theorem mult (rs : BitVec 5) (rt : BitVec 5) : Statement (.mult rs rt) := by
  simp only [Statement, encode, Instr.rowMask, Instr.rowMatch, mask_op_funct]
  simp

theorem multu (rs : BitVec 5) (rt : BitVec 5) : Statement (.multu rs rt) := by
  simp only [Statement, encode, Instr.rowMask, Instr.rowMatch, mask_op_funct]
  simp

theorem div (rs : BitVec 5) (rt : BitVec 5) : Statement (.div rs rt) := by
  simp only [Statement, encode, Instr.rowMask, Instr.rowMatch, mask_op_funct]
  simp

theorem divu (rs : BitVec 5) (rt : BitVec 5) : Statement (.divu rs rt) := by
  simp only [Statement, encode, Instr.rowMask, Instr.rowMatch, mask_op_funct]
  simp

theorem mfhi (rd : BitVec 5) : Statement (.mfhi rd) := by
  simp only [Statement, encode, Instr.rowMask, Instr.rowMatch, mask_op_funct]
  simp

theorem mflo (rd : BitVec 5) : Statement (.mflo rd) := by
  simp only [Statement, encode, Instr.rowMask, Instr.rowMatch, mask_op_funct]
  simp

theorem mthi (rs : BitVec 5) : Statement (.mthi rs) := by
  simp only [Statement, encode, Instr.rowMask, Instr.rowMatch, mask_op_funct]
  simp

theorem mtlo (rs : BitVec 5) : Statement (.mtlo rs) := by
  simp only [Statement, encode, Instr.rowMask, Instr.rowMatch, mask_op_funct]
  simp

theorem addciu (rs : BitVec 5) (rt : BitVec 5) (imm : BitVec 16) : Statement (.addciu rs rt imm) := by
  simp only [Statement, encode, Instr.rowMask, Instr.rowMatch, mask_op]
  simp

theorem ffs (rs : BitVec 5) (rd : BitVec 5) : Statement (.ffs rs rd) := by
  simp only [Statement, encode, Instr.rowMask, Instr.rowMatch, mask_op_funct]
  simp

theorem ffc (rs : BitVec 5) (rd : BitVec 5) : Statement (.ffc rs rd) := by
  simp only [Statement, encode, Instr.rowMask, Instr.rowMatch, mask_op_funct]
  simp

theorem min (rs : BitVec 5) (rt : BitVec 5) (rd : BitVec 5) : Statement (.min rs rt rd) := by
  simp only [Statement, encode, Instr.rowMask, Instr.rowMatch, mask_op_funct]
  simp

theorem max (rs : BitVec 5) (rt : BitVec 5) (rd : BitVec 5) : Statement (.max rs rt rd) := by
  simp only [Statement, encode, Instr.rowMask, Instr.rowMatch, mask_op_funct]
  simp

theorem selsr (rs : BitVec 5) (rt : BitVec 5) (rd : BitVec 5) : Statement (.selsr rs rt rd) := by
  simp only [Statement, encode, Instr.rowMask, Instr.rowMatch, mask_op_funct]
  simp

theorem selsl (rs : BitVec 5) (rt : BitVec 5) (rd : BitVec 5) : Statement (.selsl rs rt rd) := by
  simp only [Statement, encode, Instr.rowMask, Instr.rowMatch, mask_op_funct]
  simp

theorem madd (rs : BitVec 5) (rt : BitVec 5) : Statement (.madd rs rt) := by
  simp only [Statement, encode, Instr.rowMask, Instr.rowMatch, mask_op_funct]
  simp

theorem maddu (rs : BitVec 5) (rt : BitVec 5) : Statement (.maddu rs rt) := by
  simp only [Statement, encode, Instr.rowMask, Instr.rowMatch, mask_op_funct]
  simp

theorem msub (rs : BitVec 5) (rt : BitVec 5) : Statement (.msub rs rt) := by
  simp only [Statement, encode, Instr.rowMask, Instr.rowMatch, mask_op_funct]
  simp

theorem msubu (rs : BitVec 5) (rt : BitVec 5) : Statement (.msubu rs rt) := by
  simp only [Statement, encode, Instr.rowMask, Instr.rowMatch, mask_op_funct]
  simp

theorem j (target : BitVec 26) : Statement (.j target) := by
  simp only [Statement, encode, Instr.rowMask, Instr.rowMatch, mask_op]
  simp

theorem jal (target : BitVec 26) : Statement (.jal target) := by
  simp only [Statement, encode, Instr.rowMask, Instr.rowMatch, mask_op]
  simp

theorem jr (rs : BitVec 5) : Statement (.jr rs) := by
  simp only [Statement, encode, Instr.rowMask, Instr.rowMatch, mask_op_funct]
  simp

theorem jalr (rs : BitVec 5) (rd : BitVec 5) : Statement (.jalr rs rd) := by
  simp only [Statement, encode, Instr.rowMask, Instr.rowMatch, mask_op_funct]
  simp

theorem beq (rs : BitVec 5) (rt : BitVec 5) (offset : BitVec 16) : Statement (.beq rs rt offset) := by
  simp only [Statement, encode, Instr.rowMask, Instr.rowMatch, mask_op]
  simp

theorem bne (rs : BitVec 5) (rt : BitVec 5) (offset : BitVec 16) : Statement (.bne rs rt offset) := by
  simp only [Statement, encode, Instr.rowMask, Instr.rowMatch, mask_op]
  simp

theorem beql (rs : BitVec 5) (rt : BitVec 5) (offset : BitVec 16) : Statement (.beql rs rt offset) := by
  simp only [Statement, encode, Instr.rowMask, Instr.rowMatch, mask_op]
  simp

theorem bnel (rs : BitVec 5) (rt : BitVec 5) (offset : BitVec 16) : Statement (.bnel rs rt offset) := by
  simp only [Statement, encode, Instr.rowMask, Instr.rowMatch, mask_op]
  simp

theorem blez (rs : BitVec 5) (offset : BitVec 16) : Statement (.blez rs offset) := by
  simp only [Statement, encode, Instr.rowMask, Instr.rowMatch, mask_op]
  simp

theorem bgtz (rs : BitVec 5) (offset : BitVec 16) : Statement (.bgtz rs offset) := by
  simp only [Statement, encode, Instr.rowMask, Instr.rowMatch, mask_op]
  simp

theorem blezl (rs : BitVec 5) (offset : BitVec 16) : Statement (.blezl rs offset) := by
  simp only [Statement, encode, Instr.rowMask, Instr.rowMatch, mask_op]
  simp

theorem bgtzl (rs : BitVec 5) (offset : BitVec 16) : Statement (.bgtzl rs offset) := by
  simp only [Statement, encode, Instr.rowMask, Instr.rowMatch, mask_op]
  simp

theorem bltz (rs : BitVec 5) (offset : BitVec 16) : Statement (.bltz rs offset) := by
  simp only [Statement, encode, Instr.rowMask, Instr.rowMatch, mask_op_rt]
  simp

theorem bgez (rs : BitVec 5) (offset : BitVec 16) : Statement (.bgez rs offset) := by
  simp only [Statement, encode, Instr.rowMask, Instr.rowMatch, mask_op_rt]
  simp

theorem bltzl (rs : BitVec 5) (offset : BitVec 16) : Statement (.bltzl rs offset) := by
  simp only [Statement, encode, Instr.rowMask, Instr.rowMatch, mask_op_rt]
  simp

theorem bgezl (rs : BitVec 5) (offset : BitVec 16) : Statement (.bgezl rs offset) := by
  simp only [Statement, encode, Instr.rowMask, Instr.rowMatch, mask_op_rt]
  simp

theorem bltzal (rs : BitVec 5) (offset : BitVec 16) : Statement (.bltzal rs offset) := by
  simp only [Statement, encode, Instr.rowMask, Instr.rowMatch, mask_op_rt]
  simp

theorem bgezal (rs : BitVec 5) (offset : BitVec 16) : Statement (.bgezal rs offset) := by
  simp only [Statement, encode, Instr.rowMask, Instr.rowMatch, mask_op_rt]
  simp

theorem bltzall (rs : BitVec 5) (offset : BitVec 16) : Statement (.bltzall rs offset) := by
  simp only [Statement, encode, Instr.rowMask, Instr.rowMatch, mask_op_rt]
  simp

theorem bgezall (rs : BitVec 5) (offset : BitVec 16) : Statement (.bgezall rs offset) := by
  simp only [Statement, encode, Instr.rowMask, Instr.rowMatch, mask_op_rt]
  simp

theorem tge (rs : BitVec 5) (rt : BitVec 5) : Statement (.tge rs rt) := by
  simp only [Statement, encode, Instr.rowMask, Instr.rowMatch, mask_op_funct]
  simp

theorem tgeu (rs : BitVec 5) (rt : BitVec 5) : Statement (.tgeu rs rt) := by
  simp only [Statement, encode, Instr.rowMask, Instr.rowMatch, mask_op_funct]
  simp

theorem tlt (rs : BitVec 5) (rt : BitVec 5) : Statement (.tlt rs rt) := by
  simp only [Statement, encode, Instr.rowMask, Instr.rowMatch, mask_op_funct]
  simp

theorem tltu (rs : BitVec 5) (rt : BitVec 5) : Statement (.tltu rs rt) := by
  simp only [Statement, encode, Instr.rowMask, Instr.rowMatch, mask_op_funct]
  simp

theorem teq (rs : BitVec 5) (rt : BitVec 5) : Statement (.teq rs rt) := by
  simp only [Statement, encode, Instr.rowMask, Instr.rowMatch, mask_op_funct]
  simp

theorem tne (rs : BitVec 5) (rt : BitVec 5) : Statement (.tne rs rt) := by
  simp only [Statement, encode, Instr.rowMask, Instr.rowMatch, mask_op_funct]
  simp

theorem tgei (rs : BitVec 5) (imm : BitVec 16) : Statement (.tgei rs imm) := by
  simp only [Statement, encode, Instr.rowMask, Instr.rowMatch, mask_op_rt]
  simp

theorem tgeiu (rs : BitVec 5) (imm : BitVec 16) : Statement (.tgeiu rs imm) := by
  simp only [Statement, encode, Instr.rowMask, Instr.rowMatch, mask_op_rt]
  simp

theorem tlti (rs : BitVec 5) (imm : BitVec 16) : Statement (.tlti rs imm) := by
  simp only [Statement, encode, Instr.rowMask, Instr.rowMatch, mask_op_rt]
  simp

theorem tltiu (rs : BitVec 5) (imm : BitVec 16) : Statement (.tltiu rs imm) := by
  simp only [Statement, encode, Instr.rowMask, Instr.rowMatch, mask_op_rt]
  simp

theorem teqi (rs : BitVec 5) (imm : BitVec 16) : Statement (.teqi rs imm) := by
  simp only [Statement, encode, Instr.rowMask, Instr.rowMatch, mask_op_rt]
  simp

theorem tnei (rs : BitVec 5) (imm : BitVec 16) : Statement (.tnei rs imm) := by
  simp only [Statement, encode, Instr.rowMask, Instr.rowMatch, mask_op_rt]
  simp

theorem syscall (code : BitVec 20) : Statement (.syscall code) := by
  simp only [Statement, encode, Instr.rowMask, Instr.rowMatch, mask_op_funct]
  simp

theorem brk (code : BitVec 20) : Statement (.brk code) := by
  simp only [Statement, encode, Instr.rowMask, Instr.rowMatch, mask_op_funct]
  simp

theorem lwc1 (base : BitVec 5) (rt : BitVec 5) (offset : BitVec 16) : Statement (.lwc1 base rt offset) := by
  simp only [Statement, encode, Instr.rowMask, Instr.rowMatch, mask_op]
  simp

theorem swc1 (base : BitVec 5) (rt : BitVec 5) (offset : BitVec 16) : Statement (.swc1 base rt offset) := by
  simp only [Statement, encode, Instr.rowMask, Instr.rowMatch, mask_op]
  simp

theorem mtc1 (rt : BitVec 5) (rd : BitVec 5) (low : BitVec 11) : Statement (.mtc1 rt rd low) := by
  simp only [Statement, encode, Instr.rowMask, Instr.rowMatch, mask_op_rs]
  simp

theorem mfc1 (rt : BitVec 5) (rd : BitVec 5) (low : BitVec 11) : Statement (.mfc1 rt rd low) := by
  simp only [Statement, encode, Instr.rowMask, Instr.rowMatch, mask_op_rs]
  simp

theorem ctc1 (rt : BitVec 5) (rd : BitVec 5) (low : BitVec 11) : Statement (.ctc1 rt rd low) := by
  simp only [Statement, encode, Instr.rowMask, Instr.rowMatch, mask_op_rs]
  simp

theorem cfc1 (rt : BitVec 5) (rd : BitVec 5) (low : BitVec 11) : Statement (.cfc1 rt rd low) := by
  simp only [Statement, encode, Instr.rowMask, Instr.rowMatch, mask_op_rs]
  simp

theorem cop1 (cofun : BitVec 25) : Statement (.cop1 cofun) := by
  simp only [Statement, encode, Instr.rowMask, Instr.rowMatch, mask_op_cofun]
  simp

theorem lwc2 (base : BitVec 5) (rt : BitVec 5) (offset : BitVec 16) : Statement (.lwc2 base rt offset) := by
  simp only [Statement, encode, Instr.rowMask, Instr.rowMatch, mask_op]
  simp

theorem swc2 (base : BitVec 5) (rt : BitVec 5) (offset : BitVec 16) : Statement (.swc2 base rt offset) := by
  simp only [Statement, encode, Instr.rowMask, Instr.rowMatch, mask_op]
  simp

theorem mtc2 (rt : BitVec 5) (rd : BitVec 5) (low : BitVec 11) : Statement (.mtc2 rt rd low) := by
  simp only [Statement, encode, Instr.rowMask, Instr.rowMatch, mask_op_rs]
  simp

theorem mfc2 (rt : BitVec 5) (rd : BitVec 5) (low : BitVec 11) : Statement (.mfc2 rt rd low) := by
  simp only [Statement, encode, Instr.rowMask, Instr.rowMatch, mask_op_rs]
  simp

theorem ctc2 (rt : BitVec 5) (rd : BitVec 5) (low : BitVec 11) : Statement (.ctc2 rt rd low) := by
  simp only [Statement, encode, Instr.rowMask, Instr.rowMatch, mask_op_rs]
  simp

theorem cfc2 (rt : BitVec 5) (rd : BitVec 5) (low : BitVec 11) : Statement (.cfc2 rt rd low) := by
  simp only [Statement, encode, Instr.rowMask, Instr.rowMatch, mask_op_rs]
  simp

theorem cop2 (cofun : BitVec 25) : Statement (.cop2 cofun) := by
  simp only [Statement, encode, Instr.rowMask, Instr.rowMatch, mask_op_cofun]
  simp

theorem lwc3 (base : BitVec 5) (rt : BitVec 5) (offset : BitVec 16) : Statement (.lwc3 base rt offset) := by
  simp only [Statement, encode, Instr.rowMask, Instr.rowMatch, mask_op]
  simp

theorem swc3 (base : BitVec 5) (rt : BitVec 5) (offset : BitVec 16) : Statement (.swc3 base rt offset) := by
  simp only [Statement, encode, Instr.rowMask, Instr.rowMatch, mask_op]
  simp

theorem mtc3 (rt : BitVec 5) (rd : BitVec 5) (low : BitVec 11) : Statement (.mtc3 rt rd low) := by
  simp only [Statement, encode, Instr.rowMask, Instr.rowMatch, mask_op_rs]
  simp

theorem mfc3 (rt : BitVec 5) (rd : BitVec 5) (low : BitVec 11) : Statement (.mfc3 rt rd low) := by
  simp only [Statement, encode, Instr.rowMask, Instr.rowMatch, mask_op_rs]
  simp

theorem ctc3 (rt : BitVec 5) (rd : BitVec 5) (low : BitVec 11) : Statement (.ctc3 rt rd low) := by
  simp only [Statement, encode, Instr.rowMask, Instr.rowMatch, mask_op_rs]
  simp

theorem cfc3 (rt : BitVec 5) (rd : BitVec 5) (low : BitVec 11) : Statement (.cfc3 rt rd low) := by
  simp only [Statement, encode, Instr.rowMask, Instr.rowMatch, mask_op_rs]
  simp

theorem cop3 (cofun : BitVec 25) : Statement (.cop3 cofun) := by
  simp only [Statement, encode, Instr.rowMask, Instr.rowMatch, mask_op_cofun]
  simp

theorem bc0f (offset : BitVec 16) : Statement (.bc0f offset) := by
  simp only [Statement, encode, Instr.rowMask, Instr.rowMatch, mask_op_rs_rt]
  simp

theorem bc0t (offset : BitVec 16) : Statement (.bc0t offset) := by
  simp only [Statement, encode, Instr.rowMask, Instr.rowMatch, mask_op_rs_rt]
  simp

theorem bc0fl (offset : BitVec 16) : Statement (.bc0fl offset) := by
  simp only [Statement, encode, Instr.rowMask, Instr.rowMatch, mask_op_rs_rt]
  simp

theorem bc0tl (offset : BitVec 16) : Statement (.bc0tl offset) := by
  simp only [Statement, encode, Instr.rowMask, Instr.rowMatch, mask_op_rs_rt]
  simp

theorem bc1f (offset : BitVec 16) : Statement (.bc1f offset) := by
  simp only [Statement, encode, Instr.rowMask, Instr.rowMatch, mask_op_rs_rt]
  simp

theorem bc1t (offset : BitVec 16) : Statement (.bc1t offset) := by
  simp only [Statement, encode, Instr.rowMask, Instr.rowMatch, mask_op_rs_rt]
  simp

theorem bc1fl (offset : BitVec 16) : Statement (.bc1fl offset) := by
  simp only [Statement, encode, Instr.rowMask, Instr.rowMatch, mask_op_rs_rt]
  simp

theorem bc1tl (offset : BitVec 16) : Statement (.bc1tl offset) := by
  simp only [Statement, encode, Instr.rowMask, Instr.rowMatch, mask_op_rs_rt]
  simp

theorem bc2f (offset : BitVec 16) : Statement (.bc2f offset) := by
  simp only [Statement, encode, Instr.rowMask, Instr.rowMatch, mask_op_rs_rt]
  simp

theorem bc2t (offset : BitVec 16) : Statement (.bc2t offset) := by
  simp only [Statement, encode, Instr.rowMask, Instr.rowMatch, mask_op_rs_rt]
  simp

theorem bc2fl (offset : BitVec 16) : Statement (.bc2fl offset) := by
  simp only [Statement, encode, Instr.rowMask, Instr.rowMatch, mask_op_rs_rt]
  simp

theorem bc2tl (offset : BitVec 16) : Statement (.bc2tl offset) := by
  simp only [Statement, encode, Instr.rowMask, Instr.rowMatch, mask_op_rs_rt]
  simp

theorem bc3f (offset : BitVec 16) : Statement (.bc3f offset) := by
  simp only [Statement, encode, Instr.rowMask, Instr.rowMatch, mask_op_rs_rt]
  simp

theorem bc3t (offset : BitVec 16) : Statement (.bc3t offset) := by
  simp only [Statement, encode, Instr.rowMask, Instr.rowMatch, mask_op_rs_rt]
  simp

theorem bc3fl (offset : BitVec 16) : Statement (.bc3fl offset) := by
  simp only [Statement, encode, Instr.rowMask, Instr.rowMatch, mask_op_rs_rt]
  simp

theorem bc3tl (offset : BitVec 16) : Statement (.bc3tl offset) := by
  simp only [Statement, encode, Instr.rowMask, Instr.rowMatch, mask_op_rs_rt]
  simp

theorem mtc0 (rt : BitVec 5) (rd : BitVec 5) : Statement (.mtc0 rt rd) := by
  simp only [Statement, encode, Instr.rowMask, Instr.rowMatch, mask_op_rs]
  simp

theorem mfc0 (rt : BitVec 5) (rd : BitVec 5) : Statement (.mfc0 rt rd) := by
  simp only [Statement, encode, Instr.rowMask, Instr.rowMatch, mask_op_rs]
  simp

theorem tlbr : Statement (.tlbr) := by
  simp only [Statement, encode, Instr.rowMask, Instr.rowMatch, mask_op_cofun_funct]
  simp

theorem tlbwi : Statement (.tlbwi) := by
  simp only [Statement, encode, Instr.rowMask, Instr.rowMatch, mask_op_cofun_funct]
  simp

theorem tlbwr : Statement (.tlbwr) := by
  simp only [Statement, encode, Instr.rowMask, Instr.rowMatch, mask_op_cofun_funct]
  simp

theorem tlbp : Statement (.tlbp) := by
  simp only [Statement, encode, Instr.rowMask, Instr.rowMatch, mask_op_cofun_funct]
  simp

theorem rfe : Statement (.rfe) := by
  simp only [Statement, encode, Instr.rowMask, Instr.rowMatch, mask_op_cofun_funct]
  simp

theorem eret : Statement (.eret) := by
  simp only [Statement, encode, Instr.rowMask, Instr.rowMatch, mask_op_cofun_funct]
  simp

theorem waiti : Statement (.waiti) := by
  simp only [Statement, encode, Instr.rowMask, Instr.rowMatch, mask_op_cofun_funct]
  simp

theorem flushi : Statement (.flushi) := by
  simp only [Statement, encode, Instr.rowMask, Instr.rowMatch, mask_op_rt]
  simp

theorem flushd : Statement (.flushd) := by
  simp only [Statement, encode, Instr.rowMask, Instr.rowMatch, mask_op_rt]
  simp

theorem flushid : Statement (.flushid) := by
  simp only [Statement, encode, Instr.rowMask, Instr.rowMatch, mask_op_rt]
  simp

theorem wb (base : BitVec 5) (offset : BitVec 16) : Statement (.wb base offset) := by
  simp only [Statement, encode, Instr.rowMask, Instr.rowMatch, mask_op_rt]
  simp

end Laws.RowBits

end Sys2Proof
end

