-- ==== Sys2Proof/Tests/Slice0.lean ====
section
/-! SUPPORT. Tests. The words and the expected values are those of spec/95_test_vectors.md (the vector is named in each
comment) or follow by hand from the rule named; `witness_<Obligation>` shows a state that meets the hypotheses of a
statement. -/

namespace Sys2Proof.Tests.Slice0

open Sys2Proof Sys2Proof.Machine

-- Many small theorems: elaborating them one after another keeps the memory of the check low.
set_option Elab.async false

/-! ### Helpers -/

/-- The standard premise of 95 section 4, with some general registers set. -/
def premise (regs : List (BitVec 5 × Word)) : State :=
  regs.foldl (fun s p => s.setReg p.1 p.2)
    { State.reset with pc := 0x80001000, npc := 0x80001004, cp0 := { Cp0.reset with status := 0, ccc := 0x00300000 } }

/-- The premise with Status. -/
def withStatus (s : State) (v : Word) : State := { s with cp0 := { s.cp0 with status := v } }

/-- The premise with CCC. -/
def withCcc (s : State) (v : Word) : State := { s with cp0 := { s.cp0 with ccc := v } }

/-- The premise with HI and LO. -/
def withHiLo (s : State) (h l : Word) : State := { s with hi := h, lo := l }

/-- The memory of the load vectors: eight bytes at physical 0x2000 (95 section 4.4). -/
def loadMemory : List Host.Cell :=
  [(0x2000, 0x80), (0x2001, 0x91), (0x2002, 0xA2), (0x2003, 0xB3), (0x2004, 0x04), (0x2005, 0x15), (0x2006, 0x26),
    (0x2007, 0x37)]

/-- The premise of the load vectors, reached through kseg1 so that no cache takes part. -/
def loads (bigEndian : Bool) : State :=
  { premise [(4, 0xA0002000), (2, 0xEEEEEEEE)] with mem := loadMemory, cfg := { Config.default with bigEndian := bigEndian } }

/-- The premise of the store vectors: the same place, zeros there. -/
def stores (bigEndian : Bool) : State :=
  { premise [(4, 0xA0002000), (2, 0x11223344)] with cfg := { Config.default with bigEndian := bigEndian } }

/-- What a register holds after one instruction, if it ends in a next state. -/
def regAfter (r : BitVec 5) (x : Result) : Option Word :=
  match x with
  | .next t => some (t.reg r)
  | _ => none

/-- HI and LO after one instruction. -/
def hiLoAfter (x : Result) : Option (Word × Word) :=
  match x with
  | .next t => some (t.hi, t.lo)
  | _ => none

/-- pc and npc after one instruction. -/
def pcsAfter (x : Result) : Option (Word × Word) :=
  match x with
  | .next t => some (t.pc, t.npc)
  | _ => none

/-- Cause and pc after one instruction. -/
def entryAfter (x : Result) : Option (Word × Word) :=
  match x with
  | .next t => some (t.cp0.cause, t.pc)
  | _ => none

/-- Status and EPC after one instruction. -/
def savedAfter (x : Result) : Option (Word × Word) :=
  match x with
  | .next t => some (t.cp0.status, t.cp0.epc)
  | _ => none

/-- A CP0 register after one instruction. -/
def cp0After (n : BitVec 5) (x : Result) : Option Word :=
  match x with
  | .next t => some (t.cp0.field n)
  | _ => none

/-- The bytes at physical 0x2000 to 0x2003 after one instruction and an empty write buffer. -/
def bytesAfter (x : Result) : Option (List Byte) :=
  match x with
  | .next t => some (Memory.readBytes (t.drainAll).mem 0x2000 4)
  | _ => none

/-- Whether one instruction ends in a next state. -/
def completes (x : Result) : Bool :=
  match x with
  | .next _ => true
  | _ => false

/-- The refusal one instruction ends in. -/
def refusalOf (x : Result) : Option Refusal :=
  match x with
  | .refused r => some r
  | _ => none


/-- E1 to E15 of 95 section 3. -/
theorem test_decode_loads_stores :
    decode 0x8082FFFC = .instr (.lb 4 2 0xfffc) ∧ decode 0x8482FFFC = .instr (.lh 4 2 0xfffc) ∧
    decode 0x8882FFFC = .instr (.lwl 4 2 0xfffc) ∧ decode 0x8C82FFFC = .instr (.lw 4 2 0xfffc) ∧
    decode 0x9082FFFC = .instr (.lbu 4 2 0xfffc) ∧ decode 0x9482FFFC = .instr (.lhu 4 2 0xfffc) ∧
    decode 0x9882FFFC = .instr (.lwr 4 2 0xfffc) ∧ decode 0xA082FFFC = .instr (.sb 4 2 0xfffc) ∧
    decode 0xA482FFFC = .instr (.sh 4 2 0xfffc) ∧ decode 0xA882FFFC = .instr (.swl 4 2 0xfffc) ∧
    decode 0xAC82FFFC = .instr (.sw 4 2 0xfffc) ∧ decode 0xB882FFFC = .instr (.swr 4 2 0xfffc) ∧
    decode 0xC082FFFC = .instr (.ll 4 2 0xfffc) ∧ decode 0xE082FFFC = .instr (.sc 4 2 0xfffc) ∧
    decode 0x0000000F = .instr .sync := by decide

/-- E16 to E23 of 95 section 3. -/
theorem test_decode_immediate :
    decode 0x20228001 = .instr (.addi 1 2 0x8001) ∧ decode 0x24228001 = .instr (.addiu 1 2 0x8001) ∧
    decode 0x28228001 = .instr (.slti 1 2 0x8001) ∧ decode 0x2C228001 = .instr (.sltiu 1 2 0x8001) ∧
    decode 0x30228001 = .instr (.andi 1 2 0x8001) ∧ decode 0x34228001 = .instr (.ori 1 2 0x8001) ∧
    decode 0x38228001 = .instr (.xori 1 2 0x8001) ∧ decode 0x3C028001 = .instr (.lui 2 0x8001) := by decide

/-- E24 to E33 of 95 section 3. -/
theorem test_decode_register :
    decode 0x00221820 = .instr (.add 1 2 3) ∧ decode 0x00221821 = .instr (.addu 1 2 3) ∧
    decode 0x00221822 = .instr (.sub 1 2 3) ∧ decode 0x00221823 = .instr (.subu 1 2 3) ∧
    decode 0x0022182A = .instr (.slt 1 2 3) ∧ decode 0x0022182B = .instr (.sltu 1 2 3) ∧
    decode 0x00221824 = .instr (.and 1 2 3) ∧ decode 0x00221825 = .instr (.or 1 2 3) ∧
    decode 0x00221826 = .instr (.xor 1 2 3) ∧ decode 0x00221827 = .instr (.nor 1 2 3) := by decide

/-- E34 to E39 of 95 section 3. -/
theorem test_decode_shift :
    decode 0x00021FC0 = .instr (.sll 2 3 31) ∧ decode 0x00021FC2 = .instr (.srl 2 3 31) ∧
    decode 0x00021FC3 = .instr (.sra 2 3 31) ∧ decode 0x00221804 = .instr (.sllv 1 2 3) ∧
    decode 0x00221806 = .instr (.srlv 1 2 3) ∧ decode 0x00221807 = .instr (.srav 1 2 3) := by decide

/-- E40 to E47 of 95 section 3. -/
theorem test_decode_muldiv :
    decode 0x00220018 = .instr (.mult 1 2) ∧ decode 0x00220019 = .instr (.multu 1 2) ∧
    decode 0x0022001A = .instr (.div 1 2) ∧ decode 0x0022001B = .instr (.divu 1 2) ∧
    decode 0x00001810 = .instr (.mfhi 3) ∧ decode 0x00001812 = .instr (.mflo 3) ∧
    decode 0x00200011 = .instr (.mthi 1) ∧ decode 0x00200013 = .instr (.mtlo 1) := by decide

/-- E48 to E58 of 95 section 3. -/
theorem test_decode_extension :
    decode 0x70228001 = .instr (.addciu 1 2 0x8001) ∧ decode 0x0020180A = .instr (.ffs 1 3) ∧
    decode 0x0020180B = .instr (.ffc 1 3) ∧ decode 0x00221828 = .instr (.min 1 2 3) ∧
    decode 0x00221829 = .instr (.max 1 2 3) ∧ decode 0x00221801 = .instr (.selsr 1 2 3) ∧
    decode 0x00221805 = .instr (.selsl 1 2 3) ∧ decode 0x0022001C = .instr (.madd 1 2) ∧
    decode 0x0022001D = .instr (.maddu 1 2) ∧ decode 0x0022001E = .instr (.msub 1 2) ∧
    decode 0x0022001F = .instr (.msubu 1 2) := by decide

/-- E59 to E78 of 95 section 3. -/
theorem test_decode_jump_branch :
    decode 0x0848D15B = .instr (.j 0x48d15b) ∧ decode 0x0C48D15B = .instr (.jal 0x48d15b) ∧
    decode 0x00200008 = .instr (.jr 1) ∧ decode 0x00201809 = .instr (.jalr 1 3) ∧
    decode 0x1022FFFE = .instr (.beq 1 2 0xfffe) ∧ decode 0x1422FFFE = .instr (.bne 1 2 0xfffe) ∧
    decode 0x5022FFFE = .instr (.beql 1 2 0xfffe) ∧ decode 0x5422FFFE = .instr (.bnel 1 2 0xfffe) ∧
    decode 0x1820FFFE = .instr (.blez 1 0xfffe) ∧ decode 0x1C20FFFE = .instr (.bgtz 1 0xfffe) ∧
    decode 0x5820FFFE = .instr (.blezl 1 0xfffe) ∧ decode 0x5C20FFFE = .instr (.bgtzl 1 0xfffe) ∧
    decode 0x0420FFFE = .instr (.bltz 1 0xfffe) ∧ decode 0x0421FFFE = .instr (.bgez 1 0xfffe) ∧
    decode 0x0422FFFE = .instr (.bltzl 1 0xfffe) ∧ decode 0x0423FFFE = .instr (.bgezl 1 0xfffe) ∧
    decode 0x0430FFFE = .instr (.bltzal 1 0xfffe) ∧ decode 0x0431FFFE = .instr (.bgezal 1 0xfffe) ∧
    decode 0x0432FFFE = .instr (.bltzall 1 0xfffe) ∧ decode 0x0433FFFE = .instr (.bgezall 1 0xfffe) := by decide

/-- E79 to E92 of 95 section 3. -/
theorem test_decode_trap :
    decode 0x00220030 = .instr (.tge 1 2) ∧ decode 0x00220031 = .instr (.tgeu 1 2) ∧
    decode 0x00220032 = .instr (.tlt 1 2) ∧ decode 0x00220033 = .instr (.tltu 1 2) ∧
    decode 0x00220034 = .instr (.teq 1 2) ∧ decode 0x00220036 = .instr (.tne 1 2) ∧
    decode 0x04288001 = .instr (.tgei 1 0x8001) ∧ decode 0x04298001 = .instr (.tgeiu 1 0x8001) ∧
    decode 0x042A8001 = .instr (.tlti 1 0x8001) ∧ decode 0x042B8001 = .instr (.tltiu 1 0x8001) ∧
    decode 0x042C8001 = .instr (.teqi 1 0x8001) ∧ decode 0x042E8001 = .instr (.tnei 1 0x8001) ∧
    decode 0x0000000C = .instr (.syscall 0) ∧ decode 0x0000000D = .instr (.brk 0) := by decide

/-- E93 to E99 of 95 section 3. -/
theorem test_decode_cop1 :
    decode 0xC482FFFC = .instr (.lwc1 4 2 0xfffc) ∧ decode 0xE482FFFC = .instr (.swc1 4 2 0xfffc) ∧
    decode 0x44821800 = .instr (.mtc1 2 3 0) ∧ decode 0x44021800 = .instr (.mfc1 2 3 0) ∧
    decode 0x44C21800 = .instr (.ctc1 2 3 0) ∧ decode 0x44421800 = .instr (.cfc1 2 3 0) ∧
    decode 0x46155555 = .instr (.cop1 0x155555) := by decide

/-- E100 to E106 of 95 section 3. -/
theorem test_decode_cop2 :
    decode 0xC882FFFC = .instr (.lwc2 4 2 0xfffc) ∧ decode 0xE882FFFC = .instr (.swc2 4 2 0xfffc) ∧
    decode 0x48821800 = .instr (.mtc2 2 3 0) ∧ decode 0x48021800 = .instr (.mfc2 2 3 0) ∧
    decode 0x48C21800 = .instr (.ctc2 2 3 0) ∧ decode 0x48421800 = .instr (.cfc2 2 3 0) ∧
    decode 0x4A155555 = .instr (.cop2 0x155555) := by decide

/-- E107 to E113 of 95 section 3. -/
theorem test_decode_cop3 :
    decode 0xCC82FFFC = .instr (.lwc3 4 2 0xfffc) ∧ decode 0xEC82FFFC = .instr (.swc3 4 2 0xfffc) ∧
    decode 0x4C821800 = .instr (.mtc3 2 3 0) ∧ decode 0x4C021800 = .instr (.mfc3 2 3 0) ∧
    decode 0x4CC21800 = .instr (.ctc3 2 3 0) ∧ decode 0x4C421800 = .instr (.cfc3 2 3 0) ∧
    decode 0x4E155555 = .instr (.cop3 0x155555) := by decide

/-- E114 to E129 of 95 section 3. -/
theorem test_decode_cop_branch :
    decode 0x4100FFFE = .instr (.bc0f 0xfffe) ∧ decode 0x4101FFFE = .instr (.bc0t 0xfffe) ∧
    decode 0x4102FFFE = .instr (.bc0fl 0xfffe) ∧ decode 0x4103FFFE = .instr (.bc0tl 0xfffe) ∧
    decode 0x4500FFFE = .instr (.bc1f 0xfffe) ∧ decode 0x4501FFFE = .instr (.bc1t 0xfffe) ∧
    decode 0x4502FFFE = .instr (.bc1fl 0xfffe) ∧ decode 0x4503FFFE = .instr (.bc1tl 0xfffe) ∧
    decode 0x4900FFFE = .instr (.bc2f 0xfffe) ∧ decode 0x4901FFFE = .instr (.bc2t 0xfffe) ∧
    decode 0x4902FFFE = .instr (.bc2fl 0xfffe) ∧ decode 0x4903FFFE = .instr (.bc2tl 0xfffe) ∧
    decode 0x4D00FFFE = .instr (.bc3f 0xfffe) ∧ decode 0x4D01FFFE = .instr (.bc3t 0xfffe) ∧
    decode 0x4D02FFFE = .instr (.bc3fl 0xfffe) ∧ decode 0x4D03FFFE = .instr (.bc3tl 0xfffe) := by decide

/-- E130 to E138 of 95 section 3. -/
theorem test_decode_cp0 :
    decode 0x40821800 = .instr (.mtc0 2 3) ∧ decode 0x40021800 = .instr (.mfc0 2 3) ∧
    decode 0x42000001 = .instr .tlbr ∧ decode 0x42000002 = .instr .tlbwi ∧ decode 0x42000006 = .instr .tlbwr ∧
    decode 0x42000008 = .instr .tlbp ∧ decode 0x42000010 = .instr .rfe ∧ decode 0x42000018 = .instr .eret ∧
    decode 0x42000020 = .instr .waiti := by decide

/-- E139 to E142 of 95 section 3. -/
theorem test_decode_cache :
    decode 0xBC010000 = .instr .flushi ∧ decode 0xBC020000 = .instr .flushd ∧ decode 0xBC030000 = .instr .flushid ∧
    decode 0xBC84FFFC = .instr (.wb 4 0xfffc) := by decide

/-! ### Words outside the table (95 section 3, U vectors) and ignored bits (F22, F31) -/

theorem test_decode_reserved :
    [0x0000000E, 0x00000014, 0x0000002C, 0x00000035, 0x04040000, 0x040D0000, 0x041F0000, 0x60000000, 0x68000000,
      0x9C000000, 0xDC000000, 0xFC000000].all (fun w => decode w == .reserved) = true := by decide

theorem test_decode_silent :
    decode 0x40400000 = .cfc0 0 ∧ decode 0x4200003F = .cp0Silent ∧ decode 0xBC100000 = .cacheSilent ∧
      decode 0xBC000000 = .cacheSilent := by decide

theorem test_decode_ignored_bits :
    decode 0x03FFFFCC = .instr (.syscall 0xFFFFF) ∧ decode 0x43FFFFD8 = .instr .eret := by decide

theorem test_table_word :
    decodeTableWord 32 0x0022001C = some (.madd 1 2) ∧ decodeTableWord 32 0xDC000000 = none := by decide

theorem test_bytes_big_endian : decodeBytes true [0x8C, 0x82, 0xFF, 0xFC] = .ok (.lw 4 2 0xFFFC, []) := by decide

theorem test_bytes_little_endian : decodeBytes false [0xFC, 0xFF, 0x82, 0x8C] = .ok (.lw 4 2 0xFFFC, []) := by decide

/-! ### WellFormed: what an assembler refuses, one ill-formed term for each check -/

theorem test_unused_bits_refused :
    (Instr.mtc1 2 3 1).wellFormed = false ∧ (Instr.mtc1 2 3 0).wellFormed = true := by decide

theorem test_branch_in_slot_refused :
    slotAllowed (.j 0) (.beq 1 2 3) = false ∧ slotAllowed (.j 0) (.bc1t 3) = false := by decide

theorem test_trap_in_slot_refused :
    slotAllowed (.j 0) (.teqi 1 2) = false ∧ slotAllowed (.beq 1 2 3) (.tge 1 2) = false := by decide

theorem test_eret_in_slot_refused : slotAllowed (.jr 1) .eret = false := by decide

theorem test_rfe_in_slot_of_jr_only :
    slotAllowed (.beq 1 2 3) .rfe = false ∧ slotAllowed (.jr 1) .rfe = true := by decide

theorem test_isolated_likely_slot_refused : isolatedSlotAllowed (.beql 1 2 3) (.lw 4 2 0) = false := by decide

theorem test_nops_after_flush_needed :
    nopsFollow .flushi [.nop, .nop] = false ∧ nopsFollow .flushi [.nop, .nop, .nop] = true := by decide

theorem test_nops_after_waiti_needed :
    nopsFollow .waiti [.nop, .syscall 0] = false ∧ nopsFollow .waiti [.nop, .nop] = true := by decide

theorem test_text_ending_in_a_branch_refused :
    textWellFormed [.j 0] = false ∧ textWellFormed [.j 0, .nop] = true := by decide

theorem test_text_with_bad_slot_refused : textWellFormed [.j 0, .j 0, .nop] = false := by decide

theorem test_text_with_unused_bits_refused : textWellFormed [.ctc2 1 2 3] = false := by decide

/-! ### Computation (95 section 4.1) -/

theorem test_A1_add :
    entryAfter (exec (.add 1 2 3) (premise [(1, 0x7FFFFFFF), (2, 1)])) = some (0x30, 0x80000180) := by decide

theorem test_A2_add :
    regAfter 3 (exec (.add 1 2 3) (premise [(1, 0x7FFFFFFF), (2, 0xFFFFFFFF)])) = some 0x7FFFFFFE := by decide

theorem test_A4_addu :
    regAfter 3 (exec (.addu 1 2 3) (premise [(1, 0x7FFFFFFF), (2, 1)])) = some 0x80000000 := by decide

theorem test_A15_addiu_r0 : regAfter 0 (exec (.addiu 1 0 5) (premise [(1, 1)])) = some 0 := by decide

theorem test_A7_sub :
    entryAfter (exec (.sub 1 2 3) (premise [(2, 0x80000000)])) = some (0x30, 0x80000180) := by decide

theorem test_A8_sub : regAfter 3 (exec (.sub 1 2 3) (premise [(1, 5), (2, 7)])) = some 0xFFFFFFFE := by decide

theorem test_A9_subu :
    regAfter 3 (exec (.subu 1 2 3) (premise [(1, 0x80000000), (2, 1)])) = some 0x7FFFFFFF := by decide

theorem test_A12_addi :
    entryAfter (exec (.addi 1 2 0x8000) (premise [(1, 0x80007FFF)])) = some (0x30, 0x80000180) := by decide

theorem test_A11_addi :
    regAfter 2 (exec (.addi 1 2 0x7FFF) (premise [(1, 0x7FFF8000)])) = some 0x7FFFFFFF := by decide

theorem test_A13_addiu : regAfter 2 (exec (.addiu 1 2 0xFFFF) (premise [])) = some 0xFFFFFFFF := by decide

theorem test_A16_slt :
    regAfter 3 (exec (.slt 1 2 3) (premise [(1, 0x80000000), (2, 0x7FFFFFFF)])) = some 1 := by decide

theorem test_A17_sltu :
    regAfter 3 (exec (.sltu 1 2 3) (premise [(1, 0x80000000), (2, 0x7FFFFFFF)])) = some 0 := by decide

theorem test_A19_slti : regAfter 2 (exec (.slti 1 2 0xFFFF) (premise [(1, 0xFFFFFFFE)])) = some 1 := by decide

theorem test_A21_sltiu : regAfter 2 (exec (.sltiu 1 2 0x8000) (premise [(1, 0xFFFF7FFF)])) = some 1 := by decide

theorem test_A23_andi : regAfter 2 (exec (.andi 1 2 0x8001) (premise [(1, 0xFFFFFFFF)])) = some 0x8001 := by decide

theorem test_A24_ori : regAfter 2 (exec (.ori 1 2 0x8001) (premise [(1, 0x12340000)])) = some 0x12348001 := by decide

theorem test_A25_xori :
    regAfter 2 (exec (.xori 1 2 0xFFFF) (premise [(1, 0xFFFFFFFF)])) = some 0xFFFF0000 := by decide

theorem test_A26_lui : regAfter 2 (exec (.lui 2 0x8001) (premise [(2, 0xFFFFFFFF)])) = some 0x80010000 := by decide

theorem test_A27_and :
    regAfter 3 (exec (.and 1 2 3) (premise [(1, 0xF0F0F0F0), (2, 0xFF00FF00)])) = some 0xF000F000 := by decide

theorem test_A28_or :
    regAfter 3 (exec (.or 1 2 3) (premise [(1, 0xF0F0F0F0), (2, 0xFF00FF00)])) = some 0xFFF0FFF0 := by decide

theorem test_A29_xor :
    regAfter 3 (exec (.xor 1 2 3) (premise [(1, 0xF0F0F0F0), (2, 0xFF00FF00)])) = some 0x0FF00FF0 := by decide

theorem test_A30_nor :
    regAfter 3 (exec (.nor 1 2 3) (premise [(1, 0xF0F0F0F0), (2, 0xFF00FF00)])) = some 0x000F000F := by decide

theorem test_A32_sll : regAfter 3 (exec (.sll 2 3 31) (premise [(2, 3)])) = some 0x80000000 := by decide

theorem test_A33_srl : regAfter 3 (exec (.srl 2 3 31) (premise [(2, 0x80000000)])) = some 1 := by decide

theorem test_A35_sra : regAfter 3 (exec (.sra 2 3 4) (premise [(2, 0x7FFFFFF0)])) = some 0x07FFFFFF := by decide

theorem test_A36_sllv : regAfter 3 (exec (.sllv 1 2 3) (premise [(2, 1), (1, 0xFFFFFFE4)])) = some 0x10 := by decide

theorem test_A37_srlv :
    regAfter 3 (exec (.srlv 1 2 3) (premise [(2, 0x80000000), (1, 0x20)])) = some 0x80000000 := by decide

theorem test_A38_srav :
    regAfter 3 (exec (.srav 1 2 3) (premise [(2, 0x80000000), (1, 0x3F)])) = some 0xFFFFFFFF := by decide

/-! ### Multiply, divide, HI and LO (95 section 4.2) -/

theorem test_M4_mult :
    hiLoAfter (exec (.mult 1 2) (premise [(1, 0x80000000), (2, 0x7FFFFFFF)])) =
      some (0xC0000000, 0x80000000) := by decide

theorem test_M2_multu :
    hiLoAfter (exec (.multu 1 2) (premise [(1, 0xFFFFFFFF), (2, 0xFFFFFFFF)])) = some (0xFFFFFFFE, 1) := by decide

theorem test_M7_div :
    hiLoAfter (exec (.div 1 2) (premise [(1, 0xFFFFFFF9), (2, 2)])) = some (0xFFFFFFFF, 0xFFFFFFFD) := by decide

theorem test_M10_div_by_zero_completes : completes (exec (.div 1 2) (premise [(1, 7)])) = true := by decide

theorem test_M12_divu :
    hiLoAfter (exec (.divu 1 2) (premise [(1, 0xFFFFFFF9), (2, 2)])) = some (1, 0x7FFFFFFC) := by decide

theorem test_M13_divu_by_zero_completes : completes (exec (.divu 1 2) (premise [(1, 7)])) = true := by decide

theorem test_M14_mfhi :
    regAfter 3 (exec (.mfhi 3) (withHiLo (premise []) 0x12345678 0x9ABCDEF0)) = some 0x12345678 := by decide

theorem test_M15_mflo :
    regAfter 3 (exec (.mflo 3) (withHiLo (premise []) 0x12345678 0x9ABCDEF0)) = some 0x9ABCDEF0 := by decide

theorem test_M16_mthi :
    hiLoAfter (exec (.mthi 1) (withHiLo (premise [(1, 0xCAFEBABE)]) 1 2)) = some (0xCAFEBABE, 2) := by decide

theorem test_M17_mtlo :
    hiLoAfter (exec (.mtlo 1) (withHiLo (premise [(1, 0xCAFEBABE)]) 1 2)) = some (1, 0xCAFEBABE) := by decide

theorem test_M18_mult_without_unit :
    entryAfter (exec (.mult 1 2) (withCcc (premise [(1, 2), (2, 3)]) 0)) = some (0x28, 0x80000180) := by decide

/-! ### Extensions (95 section 4.3) -/

theorem test_X2_addciu :
    regAfter 2 (exec (.addciu 1 2 0xFFFC) ((premise [(1, 0x10001000)]).cp0Write 24 4)) = some 0x1000100C := by decide

theorem test_X3_addciu_empty_window :
    regAfter 2 (exec (.addciu 1 2 4) ((premise [(1, 0x1000100C)]).cp0Write 24 0)) = some 0x1000100C := by decide

theorem test_X10_ffs : regAfter 3 (exec (.ffs 1 3) (premise [(1, 0x00012345)])) = some 0x10 := by decide

theorem test_X9_ffs_none : regAfter 3 (exec (.ffs 1 3) (premise [])) = some 0xFFFFFFFF := by decide

theorem test_X13_ffc : regAfter 3 (exec (.ffc 1 3) (premise [(1, 0xFFFF0FFF)])) = some 0xF := by decide

theorem test_X12_ffc_none : regAfter 3 (exec (.ffc 1 3) (premise [(1, 0xFFFFFFFF)])) = some 0xFFFFFFFF := by decide

theorem test_X17_min :
    regAfter 3 (exec (.min 1 2 3) (premise [(1, 0xFFFFFFFF), (2, 1)])) = some 0xFFFFFFFF := by decide

theorem test_X16_max :
    regAfter 3 (exec (.max 1 2 3) (premise [(1, 0x80000000), (2, 0x7FFFFFFF)])) = some 0x7FFFFFFF := by decide

theorem test_X19_selsr :
    regAfter 3 (exec (.selsr 1 2 3) ((premise [(1, 0x11223344), (2, 0xAABBCCDD)]).cp0Write 23 8)) =
      some 0x44AABBCC := by decide

theorem test_X23_selsr :
    regAfter 3 (exec (.selsr 1 2 3) ((premise [(1, 0x11223344), (2, 0xAABBCCDD)]).cp0Write 23 31)) =
      some 0x22446689 := by decide

theorem test_X20_selsl :
    regAfter 3 (exec (.selsl 1 2 3) ((premise [(1, 0x11223344), (2, 0xAABBCCDD)]).cp0Write 23 8)) =
      some 0x223344AA := by decide

theorem test_X24_selsl :
    regAfter 3 (exec (.selsl 1 2 3) ((premise [(1, 0x11223344), (2, 0xAABBCCDD)]).cp0Write 23 31)) =
      some 0x555DE66E := by decide

theorem test_X26_madd :
    hiLoAfter (exec (.madd 1 2) (withHiLo (premise [(1, 3), (2, 0xFFFFFFFC)]) 0 10)) =
      some (0xFFFFFFFF, 0xFFFFFFFE) := by decide

theorem test_X32_madd_without_unit :
    entryAfter (exec (.madd 1 2) (withCcc (premise [(1, 3), (2, 4)]) 0x00200000)) =
      some (0x28, 0x80000180) := by decide

theorem test_X28_maddu :
    hiLoAfter (exec (.maddu 1 2) (withHiLo (premise [(1, 0xFFFFFFFF), (2, 2)]) 0 0xFFFFFFFF)) =
      some (2, 0xFFFFFFFD) := by decide

theorem test_X29_msub :
    hiLoAfter (exec (.msub 1 2) (withHiLo (premise [(1, 3), (2, 4)]) 0 10)) =
      some (0xFFFFFFFF, 0xFFFFFFFE) := by decide

theorem test_X31_msubu :
    hiLoAfter (exec (.msubu 1 2) (withHiLo (premise [(1, 0xFFFFFFFF), (2, 0xFFFFFFFF)]) 0 0)) =
      some (1, 0xFFFFFFFF) := by decide

/-! ### Loads and stores (95 section 4.4, through kseg1) -/

theorem test_L3_lb :
    [false, true].map (fun b => regAfter 2 (exec (.lb 4 2 3) (loads b))) =
      [some 0xFFFFFFB3, some 0xFFFFFFB3] := by decide

theorem test_L2_lbu :
    [false, true].map (fun b => regAfter 2 (exec (.lbu 4 2 0) (loads b))) = [some 0x80, some 0x80] := by decide

theorem test_L5_lh :
    [false, true].map (fun b => regAfter 2 (exec (.lh 4 2 0) (loads b))) =
      [some 0xFFFF9180, some 0xFFFF8091] := by decide

theorem test_L6_lhu :
    [false, true].map (fun b => regAfter 2 (exec (.lhu 4 2 0) (loads b))) = [some 0x9180, some 0x8091] := by decide

theorem test_L10_lw :
    [false, true].map (fun b => regAfter 2 (exec (.lw 4 2 4) (loads b))) =
      [some 0x37261504, some 0x04152637] := by decide

theorem test_L12_lw_misaligned : entryAfter (exec (.lw 4 2 2) (loads false)) = some (0x10, 0x80000180) := by decide

theorem test_L14_lwl :
    [false, true].map (fun b => regAfter 2 (exec (.lwl 4 2 1) (loads b))) =
      [some 0x9180EEEE, some 0x91A2B3EE] := by decide

theorem test_L15_lwl :
    [false, true].map (fun b => regAfter 2 (exec (.lwl 4 2 2) (loads b))) =
      [some 0xA29180EE, some 0xA2B3EEEE] := by decide

theorem test_L18_lwr :
    [false, true].map (fun b => regAfter 2 (exec (.lwr 4 2 1) (loads b))) =
      [some 0xEEB3A291, some 0xEEEE8091] := by decide

theorem test_L19_lwr :
    [false, true].map (fun b => regAfter 2 (exec (.lwr 4 2 2) (loads b))) =
      [some 0xEEEEB3A2, some 0xEE8091A2] := by decide

theorem test_S1_sb :
    [false, true].map (fun b => bytesAfter (exec (.sb 4 2 0) (stores b))) =
      [some [0x44, 0, 0, 0], some [0x44, 0, 0, 0]] := by decide

theorem test_S3_sh :
    [false, true].map (fun b => bytesAfter (exec (.sh 4 2 2) (stores b))) =
      [some [0, 0, 0x44, 0x33], some [0, 0, 0x33, 0x44]] := by decide

theorem test_S7_sh_misaligned : entryAfter (exec (.sh 4 2 3) (stores false)) = some (0x14, 0x80000180) := by decide

theorem test_S5_sw :
    [false, true].map (fun b => bytesAfter (exec (.sw 4 2 0) (stores b))) =
      [some [0x44, 0x33, 0x22, 0x11], some [0x11, 0x22, 0x33, 0x44]] := by decide

theorem test_S5_sw_waits_in_the_buffer :
    (match exec (.sw 4 2 0) (stores false) with
      | .next t => (t.mem, t.wbuf)
      | _ => ([], [])) = ([], [{ addr := 0x2000, bytes := [0x44, 0x33, 0x22, 0x11] }]) := by decide

theorem test_S10_swl :
    [false, true].map (fun b => bytesAfter (exec (.swl 4 2 1) (stores b))) =
      [some [0x22, 0x11, 0, 0], some [0, 0x11, 0x22, 0x33]] := by decide

theorem test_S14_swr :
    [false, true].map (fun b => bytesAfter (exec (.swr 4 2 1) (stores b))) =
      [some [0, 0x44, 0x33, 0x22], some [0x33, 0x44, 0, 0]] := by decide

theorem test_LS1_ll :
    (match exec (.ll 4 3 0) (loads false) with
      | .next t => some (t.reg 3, t.llbit, t.cp0.llAddr)
      | _ => none) = some (0xB3A29180, true, 0x2000) := by decide

theorem test_LS4_ll_misaligned : entryAfter (exec (.ll 4 3 2) (loads false)) = some (0x10, 0x80000180) := by decide

theorem test_LS1_sc :
    (match exec (.sc 4 2 0) { stores false with llbit := true } with
      | .next t => some (t.reg 2, t.llbit, Memory.readBytes (t.drainAll).mem 0x2000 2)
      | _ => none) = some (1, false, [0x44, 0x33]) := by decide

theorem test_LS2_sc_without_link :
    (match exec (.sc 4 2 0) (stores false) with
      | .next t => some (t.reg 2, t.wbuf)
      | _ => none) = some (0, []) := by decide

theorem test_sync_empties_the_buffer :
    (match exec .sync { stores false with wbuf := [{ addr := 0x2000, bytes := [7] }] } with
      | .next t => some (t.mem, t.wbuf)
      | _ => none) = some ([(0x2000, 7)], []) := by decide

/-! ### Jumps and branches (95 section 4.5): pc and npc after the branch alone -/

theorem test_B1_j : pcsAfter (exec (.j 0x800) (premise [])) = some (0x80001004, 0x80002000) := by decide

theorem test_J_takes_the_region_of_the_slot :
    pcsAfter (exec (.j 0x10) { premise [] with pc := 0x8FFFFFFC, npc := 0x90000000 }) =
      some (0x90000000, 0x90000040) := by decide

theorem test_B2_jal : pcsAfter (exec (.jal 0x800) (premise [])) = some (0x80001004, 0x80002000) := by decide

theorem test_B2_jal_link : regAfter 31 (exec (.jal 0x800) (premise [])) = some 0x80001008 := by decide

theorem test_B3_jr : pcsAfter (exec (.jr 1) (premise [(1, 0x80003000)])) = some (0x80001004, 0x80003000) := by decide

theorem test_B5_jalr :
    pcsAfter (exec (.jalr 1 1) (premise [(1, 0x80003000)])) = some (0x80001004, 0x80003000) := by decide

theorem test_B5_jalr_link : regAfter 1 (exec (.jalr 1 1) (premise [(1, 0x80003000)])) = some 0x80001008 := by decide

theorem test_B6_beq :
    pcsAfter (exec (.beq 1 2 4) (premise [(1, 7), (2, 7)])) = some (0x80001004, 0x80001014) := by decide

theorem test_B7_beq :
    pcsAfter (exec (.beq 1 2 4) (premise [(1, 7), (2, 8)])) = some (0x80001004, 0x80001008) := by decide

theorem test_B8_bne :
    pcsAfter (exec (.bne 1 2 0xFFFC) (premise [(1, 7), (2, 8)])) = some (0x80001004, 0x80000FF4) := by decide

theorem test_B9_blez : pcsAfter (exec (.blez 1 4) (premise [])) = some (0x80001004, 0x80001014) := by decide

theorem test_B10_bgtz : pcsAfter (exec (.bgtz 1 4) (premise [])) = some (0x80001004, 0x80001008) := by decide

theorem test_B11_bltz :
    pcsAfter (exec (.bltz 1 4) (premise [(1, 0x80000000)])) = some (0x80001004, 0x80001014) := by decide

theorem test_B12_bgez : pcsAfter (exec (.bgez 1 4) (premise [])) = some (0x80001004, 0x80001014) := by decide

theorem test_B13_bltzal :
    pcsAfter (exec (.bltzal 1 4) (premise [(1, 1)])) = some (0x80001004, 0x80001008) := by decide

theorem test_B13_bltzal_links : regAfter 31 (exec (.bltzal 1 4) (premise [(1, 1)])) = some 0x80001008 := by decide

theorem test_B14_bgezal :
    pcsAfter (exec (.bgezal 1 4) (premise [(1, 1)])) = some (0x80001004, 0x80001014) := by decide

theorem test_B24_bgezal_r31 :
    pcsAfter (exec (.bgezal 31 4) (premise [(31, 0x80000000)])) = some (0x80001004, 0x80001008) := by decide

theorem test_B15_beql :
    pcsAfter (exec (.beql 1 2 4) (premise [(1, 7), (2, 7)])) = some (0x80001004, 0x80001014) := by decide

theorem test_B16_beql :
    pcsAfter (exec (.beql 1 2 4) (premise [(1, 7), (2, 8)])) = some (0x80001008, 0x8000100C) := by decide

theorem test_B17_bnel :
    pcsAfter (exec (.bnel 1 2 4) (premise [(1, 7), (2, 7)])) = some (0x80001008, 0x8000100C) := by decide

theorem test_B18_blezl : pcsAfter (exec (.blezl 1 4) (premise [(1, 1)])) = some (0x80001008, 0x8000100C) := by decide

theorem test_B19_bgtzl : pcsAfter (exec (.bgtzl 1 4) (premise [(1, 1)])) = some (0x80001004, 0x80001014) := by decide

theorem test_B20_bltzl : pcsAfter (exec (.bltzl 1 4) (premise [])) = some (0x80001008, 0x8000100C) := by decide

theorem test_B21_bgezl : pcsAfter (exec (.bgezl 1 4) (premise [])) = some (0x80001004, 0x80001014) := by decide

theorem test_B22_bltzall : pcsAfter (exec (.bltzall 1 4) (premise [])) = some (0x80001008, 0x8000100C) := by decide

theorem test_B22_bltzall_links : regAfter 31 (exec (.bltzall 1 4) (premise [])) = some 0x80001008 := by decide

theorem test_B23_bgezall : pcsAfter (exec (.bgezall 1 4) (premise [])) = some (0x80001004, 0x80001014) := by decide

theorem test_R401_jump_in_a_slot_stops :
    refusalOf (exec (.j 0) { premise [] with inSlot := true }) = some .branchInDelaySlot := by decide

/-! ### Traps, SYSCALL, BREAK (95 section 4.6) -/

theorem test_T1_tge : entryAfter (exec (.tge 1 2) (premise [(1, 5), (2, 5)])) = some (0x34, 0x80000180) := by decide

theorem test_T2_tge : entryAfter (exec (.tge 1 2) (premise [(1, 0x80000000)])) = some (0, 0x80001004) := by decide

theorem test_T3_tgeu :
    entryAfter (exec (.tgeu 1 2) (premise [(1, 0x80000000)])) = some (0x34, 0x80000180) := by decide

theorem test_T4_tlt : entryAfter (exec (.tlt 1 2) (premise [(1, 0xFFFFFFFF)])) = some (0x34, 0x80000180) := by decide

theorem test_T5_tltu : entryAfter (exec (.tltu 1 2) (premise [(1, 0xFFFFFFFF)])) = some (0, 0x80001004) := by decide

theorem test_T6_teq : entryAfter (exec (.teq 1 2) (premise [(1, 3), (2, 3)])) = some (0x34, 0x80000180) := by decide

theorem test_T7_tne : entryAfter (exec (.tne 1 2) (premise [(1, 3), (2, 3)])) = some (0, 0x80001004) := by decide

theorem test_T9_tgei :
    entryAfter (exec (.tgei 1 0xFFFF) (premise [(1, 0xFFFFFFFF)])) = some (0x34, 0x80000180) := by decide

theorem test_T10_tgei :
    entryAfter (exec (.tgei 1 0xFFFF) (premise [(1, 0xFFFFFFFE)])) = some (0, 0x80001004) := by decide

theorem test_T11_tgeiu :
    entryAfter (exec (.tgeiu 1 0xFFFF) (premise [(1, 0xFFFFFFFE)])) = some (0, 0x80001004) := by decide

theorem test_T12_tgeiu :
    entryAfter (exec (.tgeiu 1 0x8000) (premise [(1, 0xFFFF8000)])) = some (0x34, 0x80000180) := by decide

theorem test_T13_tlti :
    entryAfter (exec (.tlti 1 0) (premise [(1, 0x80000000)])) = some (0x34, 0x80000180) := by decide

theorem test_T14_tltiu :
    entryAfter (exec (.tltiu 1 0xFFFF) (premise [(1, 0x7FFFFFFF)])) = some (0x34, 0x80000180) := by decide

theorem test_T15_tltiu : entryAfter (exec (.tltiu 1 0) (premise [])) = some (0, 0x80001004) := by decide

theorem test_T16_teqi :
    entryAfter (exec (.teqi 1 0x8000) (premise [(1, 0xFFFF8000)])) = some (0x34, 0x80000180) := by decide

theorem test_T17_tnei : entryAfter (exec (.tnei 1 5) (premise [(1, 5)])) = some (0, 0x80001004) := by decide

theorem test_T20_syscall_bootstrap_vector :
    entryAfter (exec (.syscall 0) (withStatus (premise []) 0x00400000)) = some (0x20, 0xBFC00380) := by decide

theorem test_T21_syscall_r3000_stack :
    savedAfter (exec (.syscall 0) (withStatus (withCcc (premise []) 0x01300000) 0xFF25)) =
      some (0xFF14, 0x80001000) := by decide

theorem test_T19_brk : entryAfter (exec (.brk 0) (premise [])) = some (0x24, 0x80000180) := by decide

theorem test_DS1_syscall_in_a_taken_slot :
    (match exec (.syscall 0) { premise [] with pc := 0x80001004, inSlot := true, taken := true } with
      | .next t => some (t.cp0.cause, t.cp0.epc)
      | _ => none) = some (0xC0000020, 0x80001000) := by decide

/-! ### Coprocessors (95 section 4.7) -/

theorem test_C1_mfc1_unusable :
    entryAfter (exec (.mfc1 2 3 0) (premise [])) = some (0x1000002C, 0x80000180) := by decide

theorem test_C2_lwc1_unusable :
    entryAfter (exec (.lwc1 4 2 0) (premise [])) = some (0x1000002C, 0x80000180) := by decide

theorem test_C3_cop1_unusable :
    entryAfter (exec (.cop1 0x155555) (premise [])) = some (0x1000002C, 0x80000180) := by decide

theorem test_C14_bc1t_unusable : entryAfter (exec (.bc1t 4) (premise [])) = some (0x1000002C, 0x80000180) := by decide

theorem test_C1_mfc2_unusable :
    entryAfter (exec (.mfc2 2 3 0) (premise [])) = some (0x2000002C, 0x80000180) := by decide

theorem test_C2_lwc2_unusable :
    entryAfter (exec (.lwc2 4 2 0) (premise [])) = some (0x2000002C, 0x80000180) := by decide

theorem test_C3_cop2_unusable :
    entryAfter (exec (.cop2 0x155555) (premise [])) = some (0x2000002C, 0x80000180) := by decide

theorem test_C14_bc2t_unusable : entryAfter (exec (.bc2t 4) (premise [])) = some (0x2000002C, 0x80000180) := by decide

theorem test_C1_mfc3_unusable :
    entryAfter (exec (.mfc3 2 3 0) (premise [])) = some (0x3000002C, 0x80000180) := by decide

theorem test_C2_lwc3_unusable :
    entryAfter (exec (.lwc3 4 2 0) (premise [])) = some (0x3000002C, 0x80000180) := by decide

theorem test_C3_cop3_unusable :
    entryAfter (exec (.cop3 0x155555) (premise [])) = some (0x3000002C, 0x80000180) := by decide

theorem test_C14_bc3t_unusable : entryAfter (exec (.bc3t 4) (premise [])) = some (0x3000002C, 0x80000180) := by decide

/-- All coprocessors usable and attached; they drive 0x11223344 and condition lines 1 and 3; r4 is in kseg1. -/
def attached : State :=
  { withStatus (loads false) 0xF0000000 with
    cfg := { Config.default with cp1Present := true, cp2Present := true, cp3Present := true }
    env := { Env.quiet with pins := { Pins.quiet with cpData := 0x11223344, cpCond := 0b1010 } } }

/-- What a coprocessor is sent. -/
def sentAfter (x : Result) : Option CopTransfer :=
  match x with
  | .next t => t.out.cop
  | _ => none

theorem test_R442_lwc1 :
    sentAfter (exec (.lwc1 4 2 0) attached) =
      some { unit := 1, word := 0xC4820000, dataIn := some 0xB3A29180 } := by decide

theorem test_R443_swc1 : bytesAfter (exec (.swc1 4 2 0) attached) = some [0x44, 0x33, 0x22, 0x11] := by decide

theorem test_R444_mtc1 :
    sentAfter (exec (.mtc1 2 3 0) attached) =
      some { unit := 1, word := 0x44821800, dataIn := some 0xEEEEEEEE } := by decide

theorem test_R445_mfc1 : regAfter 2 (exec (.mfc1 2 3 0) attached) = some 0x11223344 := by decide

theorem test_R446_ctc1 :
    sentAfter (exec (.ctc1 2 3 0) attached) =
      some { unit := 1, word := 0x44C21800, dataIn := some 0xEEEEEEEE } := by decide

theorem test_R447_cfc1 : regAfter 2 (exec (.cfc1 2 3 0) attached) = some 0x11223344 := by decide

theorem test_R448_cop1 :
    sentAfter (exec (.cop1 0x155555) attached) =
      some { unit := 1, word := 0x46155555, dataIn := none } := by decide

theorem test_R442_lwc2 :
    sentAfter (exec (.lwc2 4 2 0) attached) =
      some { unit := 2, word := 0xC8820000, dataIn := some 0xB3A29180 } := by decide

theorem test_R443_swc2 : bytesAfter (exec (.swc2 4 2 0) attached) = some [0x44, 0x33, 0x22, 0x11] := by decide

theorem test_R444_mtc2 :
    sentAfter (exec (.mtc2 2 3 0) attached) =
      some { unit := 2, word := 0x48821800, dataIn := some 0xEEEEEEEE } := by decide

theorem test_R445_mfc2 : regAfter 2 (exec (.mfc2 2 3 0) attached) = some 0x11223344 := by decide

theorem test_R446_ctc2 :
    sentAfter (exec (.ctc2 2 3 0) attached) =
      some { unit := 2, word := 0x48C21800, dataIn := some 0xEEEEEEEE } := by decide

theorem test_R447_cfc2 : regAfter 2 (exec (.cfc2 2 3 0) attached) = some 0x11223344 := by decide

theorem test_R448_cop2 :
    sentAfter (exec (.cop2 0x155555) attached) =
      some { unit := 2, word := 0x4A155555, dataIn := none } := by decide

theorem test_R442_lwc3 :
    sentAfter (exec (.lwc3 4 2 0) attached) =
      some { unit := 3, word := 0xCC820000, dataIn := some 0xB3A29180 } := by decide

theorem test_R443_swc3 : bytesAfter (exec (.swc3 4 2 0) attached) = some [0x44, 0x33, 0x22, 0x11] := by decide

theorem test_R444_mtc3 :
    sentAfter (exec (.mtc3 2 3 0) attached) =
      some { unit := 3, word := 0x4C821800, dataIn := some 0xEEEEEEEE } := by decide

theorem test_R445_mfc3 : regAfter 2 (exec (.mfc3 2 3 0) attached) = some 0x11223344 := by decide

theorem test_R446_ctc3 :
    sentAfter (exec (.ctc3 2 3 0) attached) =
      some { unit := 3, word := 0x4CC21800, dataIn := some 0xEEEEEEEE } := by decide

theorem test_R447_cfc3 : regAfter 2 (exec (.cfc3 2 3 0) attached) = some 0x11223344 := by decide

theorem test_R448_cop3 :
    sentAfter (exec (.cop3 0x155555) attached) =
      some { unit := 3, word := 0x4E155555, dataIn := none } := by decide

theorem test_R449_bc0f : pcsAfter (exec (.bc0f 4) attached) = some (0x80001004, 0x80001014) := by decide

theorem test_R450_bc0t : pcsAfter (exec (.bc0t 4) attached) = some (0x80001004, 0x80001008) := by decide

theorem test_R451_bc0fl : pcsAfter (exec (.bc0fl 4) attached) = some (0x80001004, 0x80001014) := by decide

theorem test_R452_bc0tl : pcsAfter (exec (.bc0tl 4) attached) = some (0x80001008, 0x8000100C) := by decide

theorem test_R449_bc1f : pcsAfter (exec (.bc1f 4) attached) = some (0x80001004, 0x80001008) := by decide

theorem test_R450_bc1t : pcsAfter (exec (.bc1t 4) attached) = some (0x80001004, 0x80001014) := by decide

theorem test_R451_bc1fl : pcsAfter (exec (.bc1fl 4) attached) = some (0x80001008, 0x8000100C) := by decide

theorem test_R452_bc1tl : pcsAfter (exec (.bc1tl 4) attached) = some (0x80001004, 0x80001014) := by decide

theorem test_R449_bc2f : pcsAfter (exec (.bc2f 4) attached) = some (0x80001004, 0x80001014) := by decide

theorem test_R450_bc2t : pcsAfter (exec (.bc2t 4) attached) = some (0x80001004, 0x80001008) := by decide

theorem test_R451_bc2fl : pcsAfter (exec (.bc2fl 4) attached) = some (0x80001004, 0x80001014) := by decide

theorem test_R452_bc2tl : pcsAfter (exec (.bc2tl 4) attached) = some (0x80001008, 0x8000100C) := by decide

theorem test_R449_bc3f : pcsAfter (exec (.bc3f 4) attached) = some (0x80001004, 0x80001008) := by decide

theorem test_R450_bc3t : pcsAfter (exec (.bc3t 4) attached) = some (0x80001004, 0x80001014) := by decide

theorem test_R451_bc3fl : pcsAfter (exec (.bc3fl 4) attached) = some (0x80001008, 0x8000100C) := by decide

theorem test_R452_bc3tl : pcsAfter (exec (.bc3tl 4) attached) = some (0x80001004, 0x80001014) := by decide

/-! ### CP0 (95 sections 4.7 and 4.8) -/

theorem test_C5_mfc0_user :
    entryAfter (exec (.mfc0 2 12) (withStatus (premise []) 0x10)) = some (0x2C, 0x80000180) := by decide

theorem test_C6_mfc0_user_with_cu0 :
    regAfter 2 (exec (.mfc0 2 12) (withStatus (premise []) 0x10000010)) = some 0x10000010 := by decide

theorem test_C7_mtc0_rotate_user :
    cp0After 23 (exec (.mtc0 2 23) (withStatus (premise [(2, 0xFFFFFFE9)]) 0x10)) = some 9 := by decide

theorem test_Z2_mtc0_cause : cp0After 13 (exec (.mtc0 2 13) (premise [(2, 0xFFFFFFFF)])) = some 0x300 := by decide

/-- The premise of the TLB vectors (95 section 4.8), after the write of entry 3. -/
def tlbPremise : State :=
  { withCcc (premise [(4, 0x00400ABC)]) 0x00300040 with
    cp0 := { Cp0.reset with status := 0, ccc := 0x00300040, entryHi := 0x00400005, entryLo := 0x00048D1E, index := 3 }
    tlb := Vector.ofFn fun i : Fin 32 =>
      if i.val = 3 then
        { big := false, vpn := 0x00400, asid := 5, pfn := 0x01234, alg := 3, dirty := true, valid := true,
          isGlobal := false }
      else { TlbEntry.zero with vpn := BitVec.ofNat 20 (0x80000 + i.val), asid := 0xFF } }

theorem test_V1_tlbwi :
    (match exec .tlbwi { tlbPremise with tlb := Vector.replicate 32 .zero } with
      | .next t => some (t.tlb[3].vpn, t.tlb[3].pfn, t.tlb[4].vpn)
      | _ => none) = some (0x00400, 0x01234, 0) := by decide

theorem test_R465_tlbwr :
    (match exec .tlbwr { tlbPremise with cp0 := { tlbPremise.cp0 with random := 31 } } with
      | .next t => some (t.tlb[31].pfn, t.tlb[30].pfn)
      | _ => none) = some (0x01234, 0) := by decide

theorem test_V10_tlbr :
    (match exec .tlbr { tlbPremise with cp0 := { tlbPremise.cp0 with entryHi := 0, entryLo := 0 } } with
      | .next t => some (t.cp0.entryHi, t.cp0.entryLo, t.cp0.pageMask)
      | _ => none) = some (0x00400005, 0x00048D1E, 0) := by decide

theorem test_V8_tlbp :
    cp0After 0 (exec .tlbp { tlbPremise with cp0 := { tlbPremise.cp0 with index := 0 } }) = some 3 := by decide

theorem test_V9_tlbp_miss :
    (cp0After 0 (exec .tlbp { tlbPremise with cp0 := { tlbPremise.cp0 with entryHi := 0x00400006 } })).map
      (·.getLsbD 31) = some true := by decide

theorem test_V2_lw_through_the_tlb :
    regAfter 2 (exec (.lw 4 2 0) { tlbPremise with mem := [(0x01234ABC, 0xEF), (0x01234ABF, 0xDE)] }) =
      some 0xDE0000EF := by decide

theorem test_V3_tlb_refill : entryAfter (exec (.lw 4 2 0x1000) tlbPremise) = some (0x08, 0x80000000) := by decide

theorem test_Z13_rfe :
    savedAfter (exec .rfe (withStatus (withCcc (premise []) 0x01300000) 0x24)) = some (0x29, 0) := by decide

theorem test_Z14_eret :
    pcsAfter (exec .eret { premise [] with
      cp0 := { (premise []).cp0 with status := 0x13, epc := 0x4000, errorEpc := 0x80005000 } }) =
      some (0x4000, 0x4004) := by decide

theorem test_Z15_eret :
    (match exec .eret { premise [] with
        cp0 := { (premise []).cp0 with status := 0x00400006, epc := 0x4000, errorEpc := 0x80005000 } } with
      | .next t => some (t.cp0.status, t.pc)
      | _ => none) = some (0x00400002, 0x80005000) := by decide

theorem test_K6_waiti :
    (match exec .waiti (premise []) with
      | .next t => some (t.waiting, t.pc)
      | _ => none) = some (true, 0x80001004) := by decide

/-! ### Cache instructions (95 sections 4.7 and 4.13) -/

/-- D-cache set 0 enabled in write-back mode; line 0 holds physical 0x2000, valid and dirty; I-cache set 0 enabled with
a valid line 0 (95 H2, after its store). -/
def dirtyLine : State :=
  { withCcc (premise [(2, 0x80002000), (6, 0xA0002000)]) 0x00322020 with
    icache := { Cache.empty with set0 := { tags := [(0, { addr := 4, valid := true, dirty := false })], data := [] } }
    dcache := { Cache.empty with
      set0 := { tags := [(0, { addr := 8, valid := true, dirty := true })], data := [(0, 0x22), (1, 0x33)] } } }

/-- The V and WB bits of line 0 of the first sets. -/
def linesAfter (x : Result) : Option (Bool × Bool × Bool) :=
  match x with
  | .next t => some ((t.icache.set0.tagAt 0).valid, (t.dcache.set0.tagAt 0).valid, (t.dcache.set0.tagAt 0).dirty)
  | _ => none

theorem test_R481_flushi : linesAfter (exec .flushi dirtyLine) = some (false, true, true) := by decide

theorem test_H4_flushd : linesAfter (exec .flushd dirtyLine) = some (true, false, false) := by decide

theorem test_R483_flushid : linesAfter (exec .flushid dirtyLine) = some (false, false, false) := by decide

theorem test_H3_wb : linesAfter (exec (.wb 2 0) dirtyLine) = some (true, true, false) := by decide

theorem test_H3_wb_writes_memory :
    (match exec (.wb 2 0) dirtyLine with
      | .next t => t.mem
      | _ => []) = [(0x2000, 0x22), (0x2001, 0x33)] := by decide

theorem test_H2_cached_load_hits : regAfter 4 (exec (.lw 2 4 0) dirtyLine) = some 0x3322 := by decide

theorem test_H2_uncached_load_reads_memory : regAfter 5 (exec (.lw 6 5 0) dirtyLine) = some 0 := by decide

theorem test_C11_flushi_user :
    entryAfter (exec .flushi (withStatus (premise []) 0x10)) = some (0x28, 0x80000180) := by decide

theorem test_C12_wb_user :
    entryAfter (exec (.wb 4 0) (withStatus (premise []) 0x10)) = some (0x28, 0x80000180) := by decide

/-! ### Steps (95 sections 4.9 to 4.12) -/

theorem test_first_step_after_reset :
    regAfter 1 (step (State.reset.withFetchWord 32 0x34018001)) = some 0x8001 := by decide

theorem test_I1_interrupt :
    entryAfter (step ({ premise [] with cp0 := { (premise []).cp0 with status := 0x101, cause := 0x100 } }.withFetchWord
      32 0x25290001)) =
      some (0x100, 0x80000180) := by decide

theorem test_I3_masked_interrupt :
    regAfter 9 (step ({ premise [] with cp0 := { (premise []).cp0 with status := 0x201, cause := 0x100 } }.withFetchWord
      32 0x25290001)) =
      some 1 := by decide

theorem test_N2_nmi :
    (match step { premise [] with nmiPending := true } with
      | .next t => some (t.pc, t.cp0.status, t.cp0.errorEpc)
      | _ => none) = some (0xBFC00000, 0x00500004, 0x80001000) := by decide

theorem test_N7_mult_right_after_reset :
    entryAfter (step (State.reset.withFetchWord 32 0x00430018)) = some (0x28, 0xBFC00380) := by decide

theorem test_G1_program_counter_breakpoint :
    (match step (State.withFetchWord { premise [] with cp0 := { (premise []).cp0 with
          dcs := 0xA1800000, bpc := 0x80001000, bpcm := 0xFFFFFFFC } } 32 0x24030003) with
      | .next t => some (t.cp0.dcs, t.pc, t.reg 3)
      | _ => none) = some (0xA1800003, 0x80000040, 0) := by decide

theorem test_K8_waiting_core_takes_nmi :
    (match step { premise [] with waiting := true, nmiPending := true } with
      | .next t => some (t.waiting, t.pc)
      | _ => none) = some (false, 0xBFC00000) := by decide

theorem test_U1_reserved_word :
    entryAfter (step ((premise []).withFetchWord 32 0x0000000E)) = some (0x28, 0x80000180) := by decide

theorem test_H9_iceport_transmits :
    (match exec (.sw 8 2 12) (premise [(8, 0xB0FF0000), (2, 0x141)]) with
      | .next t => some (t.drainAll.out.uartTx, t.drainAll.uart.txReady)
      | _ => none) = some (some 0x41, false) := by decide

/-! ### Witnesses: states that meet the hypotheses of the statements, for every clause -/

/-- Running in kseg1 with the instruction `w` (little endian) at the pc and one clock a step. -/
def running (w : Nat) : State :=
  State.withFetchWord { premise [] with pc := 0xA0001000, npc := 0xA0001004, env := { Env.quiet with clocks := some 1 } } 32 w

/-- User mode, CP0 not usable. -/
def user : State := withStatus (premise [(4, 0x80000000), (5, 0x7FFFFFFC)]) 0x10

/-- R3000 mode, Kernel. -/
def oldMode : State := withCcc (premise []) 0x01300000

/-- The premise with other pins. -/
def withPins (s : State) (p : Pins) : State := { s with env := { s.env with pins := p } }

/-- In the delay slot of a taken branch. -/
def inTakenSlot (s : State) : State := { s with pc := 0x80001004, npc := 0x80002000, inSlot := true, taken := true }

theorem witness_DecodeAgreesWithTheTable :
    decode 0x43FFFFD8 = .instr .eret ∧ 0x43FFFFD8 &&& Instr.eret.rowMask = Instr.eret.rowMatch := by decide

theorem witness_WordsOutsideTheTable :
    decode 0x0000000E = .reserved ∧ decode 0x44200000 = .copReserved 1 ∧ decode 0x4200003F = .cp0Silent ∧
      decode 0x40C00000 = .ctc0 ∧ decode 0x40420000 = .cfc0 2 ∧ decode 0xBC100000 = .cacheSilent ∧
      decode 0xBC85FFFC = .cacheAlias 4 0xFFFC ∧ (premise []).copUsable 0 = true ∧ user.copUsable 0 = false ∧
      user.copUsable 1 = false ∧ attached.copUsable 1 = true := by decide

/-- An ADDIU in kseg1: the hypotheses of the step statement, and a next state. -/
theorem witness_StepRunsDecodedInstruction :
    (running 0x25290001).sample.Runs ∧ (running 0x25290001).sample.beginStep.PlainFetch ∧
      (running 0x25290001).sample.beginStep.busErrPending = false ∧
      decodeBytes false (Memory.readBytes (running 0x25290001).sample.beginStep.mem 0x1000 4) = .ok (.addiu 9 9 1, []) ∧
      (running 0x25290001).sample.beginStep.intDue = false ∧ (running 0x25290001).sample.beginStep.eviDue = false ∧
      (running 0x25290001).sample.beginStep.debugTaken = false ∧
      completes (exec (.addiu 9 9 1) (running 0x25290001).sample.beginStep) = true := by
  refine ⟨⟨?_, ?_, ?_, ?_, ?_, ?_, ?_⟩, ⟨?_, ?_, ?_, ?_, ?_, ?_, ?_, ?_⟩, ?_, ?_, ?_, ?_, ?_, ?_⟩ <;> decide

/-- A SYSCALL there takes its exception, a jump in a delay slot is refused. -/
theorem witness_StepRunsDecodedInstruction_event_and_refusal :
    entryAfter (exec (.syscall 0) (running 0x0000000C).sample.beginStep) = some (0x20, 0x80000180) ∧
      refusalOf (exec (.j 0) { running 0x08000000 with inSlot := true }.sample.beginStep) = some .branchInDelaySlot := by
  decide

/-- The clauses of the boundary: cold release, warm release, NMI, waiting. -/
theorem witness_StepTakesEventsInOrder :
    ({ premise [] with coldLevel := true }.sample.env.pins.cold = false ∧
      { premise [] with coldLevel := true }.sample.coldLevel = true) ∧
    ({ premise [] with warmLevel := true }.sample.env.pins.warm = false ∧
      { premise [] with warmLevel := true }.sample.warmLevel = true ∧
      { premise [] with warmLevel := true }.sample.coldLevel = false) ∧
    { premise [] with nmiPending := true }.sample.nmiPending = true ∧
    { premise [] with waiting := true }.sample.staysWaiting = true ∧
    { premise [] with waiting := true }.sample.nmiPending = false := by decide

/-- The clauses of the end of a step: an interrupt, a vectored interrupt, a Debug event, an instruction's own event. -/
theorem witness_StepTakesEventsInOrder_resolve :
    ({ premise [] with cp0 := { Cp0.reset with status := 0x101, cause := 0x100 } }.intDue = true) ∧
    ((withPins (withCcc (withStatus (premise []) 1) 0x02000000) { Pins.quiet with evi := true }).eviDue = true ∧
      (withPins (withCcc (withStatus (premise []) 1) 0x02000000) { Pins.quiet with evi := true }).intDue = false) ∧
    ({ premise [] with cp0 := { (premise []).cp0 with dcs := 0xA1800000 } }.debugTaken = true ∧
      ((premise []).debugIsDue).out.debugDue = true ∧ (premise []).intDue = false ∧ (premise []).eviDue = false ∧
      (premise []).debugTaken = false) ∧
    ((premise []).takeException .sys).out.event.isSome = true := by decide

/-- Whether a fetch gives a word, an exception, a fault or a refusal. -/
def fetchKind (s : State) : Nat :=
  match s.fetch s.pc with
  | .ok _ _ => 0
  | .raise _ _ => 1
  | .abandon _ => 4
  | .fault _ => 2
  | .refuse _ => 3

/-- The clauses of the fetch: a word, a bus error, a misaligned pc, a hang, an alias. -/
theorem witness_StepTakesEventsInOrder_fetch :
    fetchKind (running 0).sample.beginStep = 0 ∧
    fetchKind { premise [] with pc := 0x80001002 }.sample.beginStep = 1 ∧
    fetchKind (withPins (running 0) { Pins.quiet with hang := true }) = 2 ∧
    fetchKind { tlbPremise with
      cp0 := { tlbPremise.cp0 with ccc := 0x0032C040 }, pc := 0x00400000
      tlb := tlbPremise.tlb.set 3 { tlbPremise.tlb[3] with pfn := 0x01235 } } = 3 ∧
    (match (withPins (running 0) { Pins.quiet with errFetch := true }).fetch 0xA0001000 with
      | .ok _ t => t.busErrPending
      | _ => false) = true := by decide

/-- A state of the invariant with memory, a cached line, a buffered store and an instruction to run. -/
def invariantState : State :=
  { State.withFetchWord dirtyLine 32 0xAC410000 with wbuf := [{ addr := 0x3000, bytes := [1] }] }

theorem cp0Inv_ccc (v : Word) (hv : Within 0x17FFFFFF v) : ({ Cp0.reset with status := 0, ccc := v } : Cp0).Inv := by
  constructor
  case ccc => exact hv
  all_goals
    dsimp only [Within, Cp0.reset]
    decide

theorem cp0Inv_premise (c : Cp0) (h : c = { Cp0.reset with status := 0, ccc := 0x00322020 }) : c.Inv := by
  subst h
  exact cp0Inv_ccc _ rfl

theorem witness_StepKeepsInvariant : invariantState.Inv ∧ completes (step invariantState) = true := by
  refine ⟨⟨?_, ⟨?_, ?_⟩, ⟨?_, ?_⟩, ⟨?_, ?_⟩, ⟨?_, ?_⟩, ?_, ?_, cp0Inv_premise _ rfl, ?_, ?_⟩, ?_⟩ <;> decide

/-- Entry in R4000 mode, in R3000 mode, with EXL, in a delay slot. -/
theorem witness_ExceptionEntry :
    ((premise []).r3000 = false ∧ (premise []).exl = false ∧ (premise []).inSlot = false) ∧ oldMode.r3000 = true ∧
      (withStatus (premise []) 2).exl = true ∧ (inTakenSlot (premise [])).inSlot = true ∧
      Exc.cpu 2 ≠ Exc.tr ∧ (premise []).env.choice.leakHiLo = none := by decide

/-- All four rows of the vector table. -/
theorem witness_ExceptionVectorsAndCodes :
    ((premise []).bev, (premise []).r3000) = (false, false) ∧ (oldMode.bev, oldMode.r3000) = (false, true) ∧
      (State.reset.bev, State.reset.r3000) = (true, false) ∧
      ((withStatus oldMode 0x00400000).bev, (withStatus oldMode 0x00400000).r3000) = (true, true) ∧
      Exc.sys ≠ .tlbRefill false 0 ∧ (withStatus (premise []) 2).exl = true := by decide

theorem witness_ExceptionRecords :
    ((premise []).takeException (.mod 0x00401000)).cp0.badVAddr = 0x00401000 ∧
      ((premise []).takeException (.adel 3)).cp0.badVAddr = 3 ∧
      ((premise []).takeException .sys).cp0.badVAddr = 0 := by decide

/-- Both modes, EXL, a delay slot. -/
theorem witness_DebugAndEviEntry :
    (premise []).takeDebug.pc = 0x80000040 ∧ (withStatus (premise []) 2).takeEvi.pc = 0 ∧
      (withStatus (premise []) 2).exl = true ∧ oldMode.r3000 = true ∧ (inTakenSlot oldMode).inSlot = true := by decide

/-- The breakpoint facility on in Kernel mode, the program counter and the data address matched in their top bits. -/
def watching (dcs : Word) : State :=
  let s := premise [(4, 0xA0002000)]
  { s with cp0 := { s.cp0 with dcs := dcs, bpc := 0xA0000000, bpcm := 0xF0000000, bda := 0xA0000003, bdam := 0xF0000003 } }

/-- Off, on, taken, masked; the program counter at the ends of its range and outside; a load and a store at the ends of
theirs and outside; a load and a store whose Debug exception is taken. -/
theorem witness_DebugAndEviEntry_detection :
    ((premise []).debugOn = false ∧ (watching 0xAF800000).debugOn = true ∧ (watching 0xAF800000).debugTaken = true ∧
      (withStatus (watching 0xAF800000) 2).debugTaken = false) ∧
    ((watching 0xAF800000).pcEvent 0xA0000000 = true ∧ (watching 0xAF800000).pcEvent 0xAFFFFFFF = true ∧
      (watching 0xAF800000).pcEvent 0x9FFFFFFC = false ∧ (watching 0xAE800000).pcEvent 0xA0000000 = false) ∧
    ((watching 0xAF800000).dataEvent 0xA0000003 true = true ∧ (watching 0xAF800000).dataEvent 0xAFFFFFFF false = true ∧
      (watching 0xAF800000).dataEvent 0xA0000000 true = false ∧ (watching 0xA3800000).dataEvent 0xA0000003 true = false) ∧
    (∀ b : Bool, { watching 0xAF800000 with cp0 := { (watching 0xAF800000).cp0 with bdam := 0 } }.dataEvent 0xA0002000 b =
      true) ∧ (watching 0xAF800000).userMode = false := by decide

/-- Both modes, and an NMI that loses the first of two stores. -/
theorem witness_NmiAndWarmResetEntry :
    (premise []).takeNmi.pc = 0xBFC00000 ∧ oldMode.takeNmi.pc = 0xBFC00000 ∧
      keptEntries [true] [{ addr := 0, bytes := [1] }, { addr := 4, bytes := [2] }] = [{ addr := 4, bytes := [2] }] ∧
      (premise []).env.choice.lost = [] ∧ (premise []).takeWarm.pc = 0xBFC00000 := by
  refine ⟨?_, ?_, ?_, ?_, rfl⟩ <;> decide

theorem witness_ColdResetEntry : (premise []).takeCold.pc = 0xBFC00000 := rfl

/-- ERET in R3000 mode, in a delay slot, with ERL, with EXL. -/
theorem witness_EretReturns :
    (oldMode.copUsable 0 = true ∧ oldMode.r3000 = true) ∧
      ((inTakenSlot (premise [])).copUsable 0 = true ∧ (inTakenSlot (premise [])).r3000 = false) ∧
      (State.reset.copUsable 0 = true ∧ State.reset.inSlot = false ∧ State.reset.recent = [] ∧ State.reset.erl = true) ∧
      ((withStatus (premise []) 2).copUsable 0 = true ∧ (withStatus (premise []) 2).erl = false) := by decide

/-- RFE in R4000 mode, in a branch's slot, in JR's slot, in sequence. -/
theorem witness_RfeReturns :
    ((premise []).copUsable 0 = true ∧ (premise []).r3000 = false) ∧
      ((inTakenSlot oldMode).copUsable 0 = true ∧ (inTakenSlot oldMode).r3000 = true ∧
        (inTakenSlot oldMode).slotOfJr = false) ∧
      { inTakenSlot oldMode with slotOfJr := true }.inSlot = true ∧ oldMode.inSlot = false := by decide

theorem witness_ExceptionThenReturnRestores :
    (Exc.tr ≠ .sys ∧ (premise []).recent = [] ∧ (premise []).r3000 = false ∧ (premise []).exl = false ∧
      (premise []).erl = false) ∧ oldMode.r3000 = true ∧ oldMode.recent = [] := by decide

theorem witness_InterruptConditions : dirtyLine.cp0.Inv := cp0Inv_premise _ rfl

/-- No clock, and a clock at which Count reaches Compare. -/
theorem witness_TimerMatch :
    { premise [] with env := { Env.quiet with clocks := some 0 } }.env.clocks = some 0 ∧ (running 0).env.clocks = some 1 :=
  by decide

/-- WAITI with and without its NOPs, and a waiting machine. -/
theorem witness_WaitState :
    (premise []).copUsable 0 = true ∧ (premise []).nopsAfter = true ∧
      { premise [] with mem := [(0x1004, 1)] }.nopsAfter = false ∧
      ({ running 0 with waiting := true }.sample.waiting = true ∧ { running 0 with waiting := true }.sample.waitSlip = 0 ∧
        { running 0 with waiting := true }.sample.coldLevel = false ∧
        { running 0 with waiting := true }.sample.warmLevel = false ∧
        { running 0 with waiting := true }.sample.nmiPending = false ∧
        { running 0 with waiting := true }.sample.intDue = false ∧
        { running 0 with waiting := true }.sample.eviDue = false) := by decide

/-- The three sums and differences with and without overflow are A1, A2, A7, A8, A11 and A12 above. -/
theorem witness_OverflowTraps :
    (∀ v : Word, v = 0x7FFFFFFF + 1 → (0x7FFFFFFF#32).msb = (1#32).msb ∧ v.msb ≠ (0x7FFFFFFF#32).msb) ∧
      (∀ v : Word, v = 0 - 0x80000000 → (0#32).msb ≠ (0x80000000#32).msb ∧ v.msb ≠ (0#32).msb) := by
  constructor <;> intro v h <;> subst h <;> decide

/-- FFS and FFC of a word with none and of one with the highest bit. -/
theorem witness_ExtensionResults :
    (premise []).reg 1 = 0 ∧ (premise [(1, 0x80000000)]).reg 1 ≠ 0 ∧ (premise [(1, 0xFFFFFFFF)]).reg 1 = 0xFFFFFFFF := by
  decide

theorem witness_Products : (premise [(1, 0x80000000), (2, 0x80000000)]).mduUsable = true := by decide

theorem witness_Accumulates : (premise [(1, 0x80000000), (2, 0x80000000)]).macUsable = true := by decide

/-- A defined division, a division by zero, the quotient that does not fit. -/
theorem witness_Divisions :
    (premise [(1, 7), (2, 0xFFFFFFFE)]).mduUsable = true ∧ (premise [(1, 7), (2, 0xFFFFFFFE)]).reg 2 ≠ 0 ∧
      (premise [(1, 7)]).reg 2 = 0 ∧
      ((premise [(1, 0x80000000), (2, 0xFFFFFFFF)]).reg 1 = 0x80000000 ∧
        (premise [(1, 0x80000000), (2, 0xFFFFFFFF)]).reg 2 = 0xFFFFFFFF) := by decide

theorem witness_HiLoMovesAndAbsentUnits :
    (premise []).mduUsable = true ∧ (withCcc (premise []) 0).cp0.ccc.getLsbD 21 = false ∧
      (withCcc (premise []) 0x00200000).cp0.ccc.getLsbD 20 = false ∧
      { premise [] with cfg := { Config.default with macPresent := false } }.cfg.macPresent = false := by decide

theorem witness_Jumps : (premise [(1, 0x80003000)]).inSlot = false := by decide

/-- Each condition holds for one of these words and fails for another: negative, zero, positive. -/
theorem witness_Branches :
    (premise [(1, 0x80000000)]).inSlot = false ∧ (premise [(1, 0x80000000)]).reg 1 ≠ (premise [(1, 0x80000000)]).reg 2 ∧
      ((premise [(1, 0x80000000)]).reg 1).toInt < 0 ∧ ((premise []).reg 1).toInt = 0 ∧
      0 < ((premise [(1, 1)]).reg 1).toInt := by decide

/-- With an ordinary slot, and with a load in the slot that executes while the caches are isolated. -/
theorem witness_LikelyBranches :
    (premise []).inSlot = false ∧ (premise []).slotSurvives = false ∧
      { withCcc (premise []) 0x00300004 with
        mem := [(0x1006, 0x44), (0x1007, 0x8C)]
        env := { Env.quiet with choice := { Choice.sequential with slotRuns := true } } }.slotSurvives = true := by decide

theorem witness_CoprocessorBranches :
    (∀ z : BitVec 2, attached.copUsable z = true) ∧ attached.inSlot = false ∧ attached.slotSurvives = false ∧
      (∀ z : BitVec 2, user.copUsable z = false) ∧ attached.env.pins.cpCond = 0b1010 := by decide

/-- A coprocessor branch, and a jump where no coprocessor is usable. -/
theorem witness_TransfersInSlotsStop :
    (inTakenSlot attached).inSlot = true ∧ (Instr.bc1t 4).isTransfer = true ∧ branchUnit (.bc1t 4) = some 1 ∧
      (inTakenSlot attached).copUsable 1 = true ∧ (inTakenSlot user).inSlot = true ∧ (Instr.j 0).isTransfer = true ∧
      branchUnit (.j 0) = none := by decide

/-- Each relation of two words or of a word and an immediate holds for some of these and fails for others; one of the
states is in a delay slot. -/
theorem witness_Traps :
    ((premise [(1, 0x80000000), (2, 1)]).reg 1).toInt < ((premise [(1, 0x80000000), (2, 1)]).reg 2).toInt ∧
      ((premise [(1, 0x80000000), (2, 1)]).reg 2).toNat < ((premise [(1, 0x80000000), (2, 1)]).reg 1).toNat ∧
      (premise []).reg 1 = (premise []).reg 2 ∧ ((premise []).reg 1).toNat < ((0x8000#16).signExtend 32).toNat ∧
      ((0x8000#16).signExtend 32).toInt < ((premise []).reg 1).toInt ∧ (inTakenSlot (premise [])).inSlot = true := by decide

theorem witness_SystemCallAndBreak :
    (premise []).env.choice.leakNext = false ∧ (premise []).r3000 = false ∧ (premise []).exl = false := by decide

/-- The last word, halfword and byte of kseg1. -/
def topOfKseg1 : State := premise [(4, 0xC0000000), (2, 0x11223344)]

theorem witness_UncachedLoads :
    (loads true).BusReads ∧ (loads true).wbuf = [] ∧ (loads true).PlainAccess 0xA0002007 0xA0002007 1 ∧
      topOfKseg1.BusReads ∧ topOfKseg1.wbuf = [] ∧ topOfKseg1.PlainAccess 0xBFFFFFFE 0xBFFFFFFE 2 ∧
      topOfKseg1.PlainAccess 0xBFFFFFFC 0xBFFFFFFC 4 ∧ topOfKseg1.reg 4 + (0xFFFC#16).signExtend 32 = 0xBFFFFFFC := by
  refine ⟨⟨?_, ?_⟩, ?_, ⟨?_, ?_, ?_, ?_, ?_, ?_, ?_⟩, ⟨?_, ?_⟩, ?_, ⟨?_, ?_, ?_, ?_, ?_, ?_, ?_⟩,
    ⟨?_, ?_, ?_, ?_, ?_, ?_, ?_⟩, ?_⟩ <;> decide

/-- The first and the last byte index, in both byte orders. -/
theorem witness_UnalignedLoads :
    (loads true).PlainAccess 0xA0002000 (leftStart true 0xA0002000) (leftCount true 0xA0002000) ∧
      (loads false).PlainAccess 0xA0002003 (leftStart false 0xA0002003) (leftCount false 0xA0002003) ∧
      (loads true).PlainAccess 0xA0002003 (rightStart true 0xA0002003) (rightCount true 0xA0002003) ∧
      (loads false).PlainAccess 0xA0002000 (rightStart false 0xA0002000) (rightCount false 0xA0002000) ∧
      (loads true).BusReads ∧ (loads false).BusReads ∧ (loads true).wbuf = [] := by
  refine ⟨⟨?_, ?_, ?_, ?_, ?_, ?_, ?_⟩, ⟨?_, ?_, ?_, ?_, ?_, ?_, ?_⟩, ⟨?_, ?_, ?_, ?_, ?_, ?_, ?_⟩,
    ⟨?_, ?_, ?_, ?_, ?_, ?_, ?_⟩, ⟨?_, ?_⟩, ⟨?_, ?_⟩, ?_⟩ <;> decide

theorem witness_UncachedStores :
    Memory.wf topOfKseg1.mem = true ∧ topOfKseg1.wbuf = [] ∧ topOfKseg1.env.pins.errWrite = false ∧
      topOfKseg1.PlainAccess 0xBFFFFFFF 0xBFFFFFFF 1 ∧ topOfKseg1.PlainAccess 0xBFFFFFFE 0xBFFFFFFE 2 ∧
      topOfKseg1.PlainAccess 0xBFFFFFFC 0xBFFFFFFC 4 := by
  refine ⟨?_, ?_, ?_, ⟨?_, ?_, ?_, ?_, ?_, ?_, ?_⟩, ⟨?_, ?_, ?_, ?_, ?_, ?_, ?_⟩, ⟨?_, ?_, ?_, ?_, ?_, ?_, ?_⟩⟩ <;> decide

theorem witness_UnalignedStores :
    Memory.wf (loads true).mem = true ∧ (loads true).wbuf = [] ∧ (loads true).env.pins.errWrite = false ∧
      (loads true).PlainAccess 0xA0002001 (leftStart true 0xA0002001) (leftCount true 0xA0002001) ∧
      (loads true).PlainAccess 0xA0002002 (rightStart true 0xA0002002) (rightCount true 0xA0002002) := by
  refine ⟨?_, ?_, ?_, ⟨?_, ?_, ?_, ?_, ?_, ?_, ?_⟩, ⟨?_, ?_, ?_, ?_, ?_, ?_, ?_⟩⟩ <;> decide

theorem witness_StoreThenLoad :
    Memory.wf (loads true).mem = true ∧ (loads true).BusReads ∧ (loads true).env.pins.errWrite = false ∧
      (loads true).PlainAccess 0xA0002000 0xA0002000 4 ∧ (loads true).reg 4 + (0#16).signExtend 32 = 0xA0002000 := by
  refine ⟨?_, ⟨?_, ?_⟩, ?_, ⟨?_, ?_, ?_, ?_, ?_, ?_, ?_⟩, ?_⟩ <;> decide

/-- A state of the invariant but for the I-cache and the D-cache. -/
theorem inv_of {s : State} (h0 : s.icache.set0.Inv) (h1 : s.icache.set1.Inv) (h2 : s.dcache.set0.Inv)
    (h3 : s.dcache.set1.Inv) (h4 : ∃ v, Within 0x17FFFFFF v ∧ s.cp0 = { Cp0.reset with status := 0, ccc := v })
    (h5 : Memory.wf s.mem = true ∧ s.imru = [] ∧ s.gpr[0] = 0 ∧ s.wbuf = [] ∧ s.itlb = []) : s.Inv := by
  obtain ⟨hm, hu, hz, hw, hi⟩ := h5
  obtain ⟨v, hv, hc⟩ := h4
  refine ⟨hm, h0, h1, h2, h3, ?_, hz, ?_, ?_, ?_⟩
  · rw [hu]; rfl
  · rw [hc]; exact cp0Inv_ccc v hv
  · rw [hw]; decide
  · rw [hi]; decide

/-- Line 0 of one set, valid, for the given tag. -/
def lineOf0 (addr : BitVec 22) (dirty : Bool) : CacheSet :=
  { tags := [(0, { addr := addr, valid := true, dirty := dirty })], data := [(0, 0x22), (1, 0x33)] }

/-- The premise with CCC and line 0 of the four sets, at physical 0x1000 and 0x1400 in the I-cache, 0x2000 and 0x2400 in
the D-cache. -/
def fourLines (ccc : Word) : State :=
  { withCcc (premise [(2, 0x80002000), (4, 0xA0002000)]) ccc with
    icache := { set0 := lineOf0 4 false, set1 := lineOf0 5 false }
    dcache := { set0 := lineOf0 8 true, set1 := lineOf0 9 true } }

theorem inv_fourLines (ccc : Word) (h : Within 0x17FFFFFF ccc) : (fourLines ccc).Inv :=
  inv_of ⟨rfl, rfl⟩ ⟨rfl, rfl⟩ ⟨rfl, rfl⟩ ⟨rfl, rfl⟩ ⟨ccc, h, rfl⟩ ⟨rfl, rfl, rfl, rfl, rfl⟩

/-- The first and the last word of a scratchpad's line, in kseg1 and kseg0, in each set. -/
theorem witness_StoreThenLoad_scratchpad :
    (fourLines 0x00302010).Inv ∧ (fourLines 0x00302010).ScratchAccess 0xA0002000 false ∧
      (fourLines 0x00302010).ScratchAccess 0x8000201C false ∧ (fourLines 0x00301008).ScratchAccess 0xA0002400 true := by
  refine ⟨inv_fourLines _ rfl, ⟨?_, ?_, ?_, ?_, ?_, ?_, ?_⟩, ⟨?_, ?_, ?_, ?_, ?_, ?_, ?_⟩, ⟨?_, ?_, ?_, ?_, ?_, ?_, ?_⟩⟩ <;>
    decide

theorem witness_MisalignedAccess :
    ((loads true).reg 4 + (1#16).signExtend 32).toNat % 2 ≠ 0 ∧ ((loads true).reg 4 + (2#16).signExtend 32).toNat % 4 ≠ 0 ∧
      attached.copUsable 1 = true ∧ (attached.cpPresent 1 && attached.env.pins.cpFault) = false := by decide

/-- The lowest kernel address, in User mode. -/
theorem witness_UserKernelAddress :
    user.userMode = true ∧ (user.reg 4 + (0#16).signExtend 32).getLsbD 31 = true ∧
      (user.reg 4 + (0#16).signExtend 32).toNat % 4 = 0 := by decide

theorem witness_LinkedPair :
    (loads false).PlainAccess 0xA0002000 0xA0002000 4 ∧ (loads false).BusReads ∧ (loads false).wbuf = [] ∧
      Memory.wf (loads false).mem = true ∧ (loads false).env.pins.errWrite = false ∧ (loads false).llbit = false ∧
      { loads false with llbit := true }.llbit = true ∧
      { loads false with llbit := true }.PlainAccess 0xA0002000 0xA0002000 4 := by
  refine ⟨⟨?_, ?_, ?_, ?_, ?_, ?_, ?_⟩, ⟨?_, ?_⟩, ?_, ?_, ?_, ?_, ?_, ⟨?_, ?_, ?_, ?_, ?_, ?_, ?_⟩⟩ <;> decide

/-- On a line the D-cache holds, in write-back and in write-through mode, with the link and without. -/
theorem witness_LinkedPair_cached :
    (fourLines 0x00302020).Inv ∧ (fourLines 0x00302020).CachedAccess 0x80002000 ∧
      (fourLines 0x00302020).dcache.hitWay (fourLines 0x00302020).dOn0 (fourLines 0x00302020).dOn1
        (fourLines 0x00302020).dsize 0x80002000 0x2000 = some false ∧ (fourLines 0x00302020).cp0.ccc.getLsbD 5 = true ∧
      (fourLines 0x00302000).CachedAccess 0x80002000 ∧ (fourLines 0x00302000).cp0.ccc.getLsbD 5 = false ∧
      { fourLines 0x00302020 with llbit := true }.llbit = true ∧
      { fourLines 0x00302020 with llbit := true }.CachedAccess 0x80002000 ∧
      (fourLines 0x00302000).llbit = false ∧ { fourLines 0x00302000 with llbit := true }.CachedAccess 0x8000201C ∧
      (fourLines 0x00302000).wbuf = [] ∧ (fourLines 0x00302000).touchesIceport 0x201C 4 = false ∧
      (fourLines 0x00302000).env.pins.errWrite = false := by
  refine ⟨inv_fourLines _ rfl, ⟨?_, ?_, ?_, ?_, ?_, ?_, ?_, ?_⟩, ?_, ?_, ⟨?_, ?_, ?_, ?_, ?_, ?_, ?_, ?_⟩, ?_, ?_,
    ⟨?_, ?_, ?_, ?_, ?_, ?_, ?_, ?_⟩, ?_, ⟨?_, ?_, ?_, ?_, ?_, ?_, ?_, ?_⟩, ?_, ?_, ?_⟩ <;> decide

theorem witness_SyncEmptiesBuffer :
    invariantState.env.pins.errWrite = false ∧ ∀ e ∈ invariantState.wbuf, invariantState.iceportReg e.addr = none := by
  decide

/-- The ends of each segment; a build without a TLB and one with the TLB off; a misaligned fetch. -/
theorem witness_SegmentTranslation :
    (premise []).userMode = false ∧ (0xA0000000#32).extractLsb' 29 3 = 0b101#3 ∧
      (0xBFFFFFFC#32).extractLsb' 29 3 = 0b101#3 ∧ (0x80000000#32).extractLsb' 29 3 = 0b100#3 ∧
      (0x9FFFFFFC#32).extractLsb' 29 3 = 0b100#3 ∧ (0x7FFFFFFC#32).extractLsb' 30 2 ≠ 0b10#2 ∧
      (0xC0000000#32).extractLsb' 30 2 ≠ 0b10#2 ∧ (premise []).cp0.ccc.getLsbD 6 = false ∧
      { premise [] with cfg := { Config.default with tlbPresent := false } }.cfg.tlbPresent = false ∧
      user.userMode = true ∧ (0x7FFFFFFC#32).getLsbD 31 = false ∧ (0x80000000#32).getLsbD 31 = true ∧
      (0x80001001#32).toNat % 4 ≠ 0 := by decide

/-- The TLB premise with another EntryLo in entry 3. -/
def entry3 (dirty valid : Bool) : State :=
  { tlbPremise with tlb := tlbPremise.tlb.set 3 { tlbPremise.tlb[3] with dirty := dirty, valid := valid } }

/-- No entry, an invalid one, a clean one, a good one, two entries. -/
theorem witness_TlbTranslation :
    tlbPremise.tlbEnabled = true ∧ tlbPremise.userMode = false ∧
      (0x00400ABC#32).extractLsb' 30 2 ≠ 0b10#2 ∧
      (∀ j : Fin 32, (tlbPremise.tlb[j.val]'j.isLt).matchesVa tlbPremise.asid 0x00401000 = false) ∧
      (∀ j : Fin 32, (tlbPremise.tlb[j.val]'j.isLt).matchesVa tlbPremise.asid 0x00400ABC = decide (j.val = 3)) ∧
      (entry3 true false).tlb[3].valid = false ∧ (entry3 false true).tlb[3].dirty = false ∧
      (entry3 true true).algAttr (entry3 true true).tlb[3].alg .store = some .uncached ∧
      ({ tlbPremise with tlb := tlbPremise.tlb.set 0 tlbPremise.tlb[3] }.tlb[0]).matchesVa 5 0x00400ABC = true := by
  decide

/-- A fetch whose page the instruction TLB holds, one it does not hold, two held entries; the entries of the joint TLB
are those above. -/
theorem witness_TlbTranslation_fetch :
    ({ tlbPremise with itlb := [tlbPremise.tlb[3]] }.heldEntries.filter fun x => x.vpnEq 0x00400000) =
        [tlbPremise.tlb[3]] ∧ tlbPremise.tlb[3].valid = true ∧
      tlbPremise.algAttr tlbPremise.tlb[3].alg .fetch = some .uncached ∧ (0x00400000#32).toNat % 4 = 0 ∧
      (entry3 true false).tlb[3].valid = false ∧ (∀ e ∈ tlbPremise.heldEntries, e.vpnEq 0x00400000 = false) ∧
      tlbPremise.tlb[3].asid = tlbPremise.cp0.entryHi.extractLsb' 0 8 ∧
      ({ tlbPremise with itlb := [tlbPremise.tlb[3], (entry3 true false).tlb[3]] }.heldEntries.filter
        fun x : TlbEntry => x.vpnEq 0x00400000).length = 2 := by decide

/-- Two held entries of one page and one match in the joint TLB: either is used, no stop (93 I37). -/
theorem test_two_held_entries :
    let s := { tlbPremise with itlb := [tlbPremise.tlb[3], { tlbPremise.tlb[3] with pfn := 0x777 }] }
    s.heldFor 0x00400000 = some tlbPremise.tlb[3] ∧
      (match s.translate 0x00400000 .fetch false with
        | .ok r _ => some r.1
        | _ => none) = some 0x01234000 := by decide

/-- A cache with one set: the enable of the other has no effect (10 R85). -/
theorem test_one_set :
    let s := { withCcc (premise []) 0x00031000 with cfg := { Config.default with icacheTwoWay := false, dcacheTwoWay := false } }
    s.iOn0 = true ∧ s.iOn1 = false ∧ s.dCaching = false ∧ s.cacheEnabled .load = false := by decide

theorem witness_UnusableCoprocessors :
    (∀ z : BitVec 2, user.copUsable z = false) ∧ user.recent = [] ∧ (premise []).tlbEnabled = false := by decide

/-- The coprocessors' exception requested. -/
theorem witness_CoprocessorMoves :
    (∀ z : BitVec 2, attached.copUsable z = true) ∧ (attached.cpPresent 1 && attached.env.pins.cpFault) = false ∧
      ((withPins attached { Pins.quiet with cpFault := true }).cpPresent 3 &&
        (withPins attached { Pins.quiet with cpFault := true }).env.pins.cpFault) = true := by decide

/-- Attached, with and without a request. -/
theorem witness_CoprocessorMemory :
    attached.PlainAccess 0xA0002000 0xA0002000 4 ∧ attached.BusReads ∧ attached.wbuf = [] ∧
      (attached.cpPresent 2 && attached.env.pins.cpFault) = false ∧ (∀ z : BitVec 2, attached.copUsable z = true) ∧
      Memory.wf attached.mem = true ∧ attached.env.pins.errWrite = false ∧ attached.cpPresent 2 = true ∧
      (withPins attached { Pins.quiet with cpFault := true }).copUsable 1 = true ∧
      ((withPins attached { Pins.quiet with cpFault := true }).cpPresent 1 &&
        (withPins attached { Pins.quiet with cpFault := true }).env.pins.cpFault) = true := by
  refine ⟨⟨?_, ?_, ?_, ?_, ?_, ?_, ?_⟩, ⟨?_, ?_⟩, ?_, ?_, ?_, ?_, ?_, ?_, ?_, ?_⟩ <;> decide

/-- Kernel mode, and User mode with Rotate. -/
theorem witness_MoveToCp0 :
    dirtyLine.cp0.Inv ∧ dirtyLine.copUsable 0 = true ∧ isMmuReg 10 = true ∧ dirtyLine.cfg.tlbPresent = true ∧
      user.copUsable 0 = false ∧ { user with cfg := { Config.default with tlbPresent := false } }.cfg.tlbPresent = false :=
  ⟨cp0Inv_premise _ rfl, by decide, by decide, by decide, by decide, by decide⟩

/-- The premise of a build with D-cache sets of 8 Kbytes (code 3) in R3000 mode. -/
def sized : State :=
  { withCcc (premise [(2, 0x00000C00), (3, 0x01000000), (4, 0x01000C00), (5, 0x01000800)]) 0x01000C00 with
    cfg := { Config.default with dcacheSize := some 3 } }

/-- CMP cleared, another size (two values of DS), neither. -/
theorem witness_MoveToCp0_ccc :
    sized.cp0.Inv ∧ sized.copUsable 0 = true ∧ ¬sized.CmpKept (sized.reg 2) ∧
      (sized.CmpKept (sized.reg 3) ∧ ¬sized.SizesMatch (sized.reg 3)) ∧
      (sized.CmpKept (sized.reg 5) ∧ ¬sized.SizesMatch (sized.reg 5)) ∧
      sized.CmpKept (sized.reg 4) ∧ sized.SizesMatch (sized.reg 4) :=
  ⟨cp0Inv_ccc _ rfl, by decide, fun h => absurd (h (by decide)) (by decide),
    ⟨fun _ => by decide, fun h => absurd (h.2 (by decide) 3 (by decide)) (by decide)⟩,
    ⟨fun _ => by decide, fun h => absurd (h.2 (by decide) 3 (by decide)) (by decide)⟩,
    fun _ => by decide, fun _ _ h => (Option.some_ne_none _ h.symm).elim,
    fun _ _ h => (by decide : (sized.reg 4).extractLsb' 10 2 = 3).trans (Option.some.inj h)⟩

/-- MTC0 to CCC (10 R63, 93 I30). -/
theorem test_mtc0_ccc_stops :
    refusalOf (exec (.mtc0 2 16) sized) = some .cmpCleared ∧ refusalOf (exec (.mtc0 3 16) sized) = some .cacheSizeMismatch ∧
      refusalOf (exec (.mtc0 4 16) sized) = none := by decide

theorem witness_MoveFromCp0 :
    dirtyLine.copUsable 0 = true ∧ dirtyLine.cfg.tlbPresent = true ∧ dirtyLine.cp0.Inv ∧
      dirtyLine.cp0.wired.toNat ≤ dirtyLine.cp0.random.toNat ∧
      dirtyLine.cp0.random.toNat ≤ dirtyLine.cfg.tlbLast.toNat :=
  ⟨by decide, by decide, cp0Inv_premise _ rfl, by decide, by decide⟩

/-- An index in range, one beyond the last entry, a value of Random, an empty range of Random. -/
theorem witness_TlbReadsAndWrites :
    tlbPremise.copUsable 0 = true ∧ tlbPremise.tlbEnabled = true ∧ tlbPremise.recent = [] ∧
      (tlbPremise.cp0.index.extractLsb' 0 5).toNat ≤ tlbPremise.cfg.tlbLast.toNat ∧ tlbPremise.randomIndex = some 31 ∧
      (3#5 > { Config.default with tlbLast := 2 }.tlbLast) ∧
      { tlbPremise with cp0 := { tlbPremise.cp0 with wired := 8, random := 7 } }.randomIndex = none := by decide

theorem witness_TlbProbe :
    tlbPremise.copUsable 0 = true ∧ tlbPremise.tlbEnabled = true ∧ tlbPremise.recent = [] ∧
      (∀ j : Fin 32, (tlbPremise.tlb[j.val]'j.isLt).matchesVa 5 0x00400000 = decide (j.val = 3)) ∧
      (∀ j : Fin 32, (tlbPremise.tlb[j.val]'j.isLt).matchesVa 6 0x00400000 = false) := by decide

theorem witness_CacheFlushes :
    invariantState.Inv ∧ invariantState.copUsable 0 = true ∧ invariantState.env.choice.late = false ∧
      (premise []).threeNops = true ∧ (invariantState.iOn0 = true ∧ invariantState.dOn0 = true) :=
  ⟨witness_StepKeepsInvariant.1, by decide, by decide, by decide, by decide⟩

/-- Running in kseg1 with the caches isolated. -/
def isolated (ccc : Word) : State := { fourLines ccc with pc := 0xA0001000, npc := 0xA0001004 }

/-- A precondition that fails; Invalidate, Tag Test and Data Test modes with all four sets enabled, and with one. -/
theorem witness_CacheFlushes_isolated :
    ((fourLines 0x00333004).Inv ∧ (fourLines 0x00333004).Isolated ∧ (fourLines 0x00333004).isolateReady = false) ∧
    (∀ ccc ∈ [0x00333005#32, 0x00333006, 0x04333004, 0x00320006, 0x00310004, 0x00302006, 0x00301004],
      (isolated ccc).Isolated ∧ (isolated ccc).isolateStop = none ∧ Within 0x17FFFFFF ccc) ∧
    (isolated 0x00302006).ramOn true false = true ∧
    (∀ d x : Bool, (d, x) ≠ (true, false) → (isolated 0x00302006).ramOn d x = false) ∧
    (isolated 0x00302006).ramWired true false = none ∧
    { isolated 0x00302006 with cfg := { Config.default with dTag0 := some 8 } }.ramWired true false = some 8 ∧
    ((isolated 0x00302006).reg 4 + (0x3FC#16).signExtend 32).toNat % 4 = 0 := by
  refine ⟨⟨inv_fourLines _ rfl, ⟨?_, ?_, ?_, ?_⟩, ?_⟩, ?_, ?_, ?_, ?_, ?_, ?_⟩
  case refine_6 =>
    intro ccc h
    simp only [List.mem_cons, List.not_mem_nil, or_false] at h
    rcases h with rfl | rfl | rfl | rfl | rfl | rfl | rfl <;> refine ⟨⟨?_, ?_, ?_, ?_⟩, ?_, rfl⟩ <;> decide
  all_goals decide

/-- Both sets dirty at the line of the address, set 0 alone, a clean line. -/
theorem witness_CacheWriteBack :
    ((fourLines 0x00303020).Inv ∧ (fourLines 0x00303020).copUsable 0 = true ∧
      (fourLines 0x00303020).env.choice.late = false ∧ (fourLines 0x00303020).env.pins.errWrite = false ∧
      lineOf (fourLines 0x00303020).dsize ((fourLines 0x00303020).reg 2 + (0#16).signExtend 32) = 0 ∧
      (fourLines 0x00303020).wbuf = [] ∧
      ∀ w : Bool, (if w then (fourLines 0x00303020).dOn1 else (fourLines 0x00303020).dOn0) = true ∧
        (((fourLines 0x00303020).dcache.way w).tagAt 0).valid = true ∧
        (((fourLines 0x00303020).dcache.way w).tagAt 0).dirty = true ∧
        (fourLines 0x00303020).touchesIceport
          (((fourLines 0x00303020).dcache.way w).lineAddress (fourLines 0x00303020).dsize 0) 32 = false) ∧
    (dirtyLine.copUsable 0 = true ∧ dirtyLine.dOn0 = true ∧ dirtyLine.dOn1 = false) ∧
    (dirtyLine.dcache.set0.tagAt 31).dirty = false :=
  ⟨⟨inv_fourLines _ rfl, by decide, by decide, by decide, by decide, by decide, by decide⟩, by decide, by decide⟩

/-- Hits at the two words at the ends of line 0, in write-back mode. -/
theorem witness_CachedStoreThenLoad :
    invariantState.Inv ∧ invariantState.CachedAccess 0x80002000 ∧ invariantState.CachedAccess 0x8000201C ∧
      invariantState.cp0.ccc.getLsbD 5 = true ∧
      invariantState.dcache.hitWay invariantState.dOn0 invariantState.dOn1 invariantState.dsize 0x80002000 0x00002000 =
        some false ∧
      invariantState.dcache.hitWay invariantState.dOn0 invariantState.dOn1 invariantState.dsize 0x8000201C 0x0000201C =
        some false := by
  refine ⟨witness_StepKeepsInvariant.1, ⟨?_, ?_, ?_, ?_, ?_, ?_, ?_, ?_⟩, ⟨?_, ?_, ?_, ?_, ?_, ?_, ?_, ?_⟩, ?_, ?_, ?_⟩ <;>
    decide

/-- A hit in set 1 in write-through mode, and a miss at the last byte of the set whose victim is dirty. -/
theorem witness_CachedStoreThenLoad_through_and_miss :
    ((fourLines 0x00303000).Inv ∧ (fourLines 0x00303000).CachedAccess 0x80002403 ∧
      (fourLines 0x00303000).dcache.hitWay true true 0 0x80002403 0x2403 = some true ∧
      (fourLines 0x00303000).cp0.ccc.getLsbD 5 = false ∧ (fourLines 0x00303000).wbuf = [] ∧
      (fourLines 0x00303000).touchesIceport (wordBase 0x2403) 4 = false ∧
      (fourLines 0x00303000).env.pins.errWrite = false) ∧
    ((fourLines 0x00303020).CachedAccess 0x8000281F ∧
      (fourLines 0x00303020).dcache.hitWay true true 0 0x8000281F 0x281F = none ∧
      (fourLines 0x00303020).BusReads ∧ (fourLines 0x00303020).touchesIceport (blockBase 0x281F) 32 = false ∧
      (fourLines 0x00303020).dVictim = false ∧
      (fourLines 0x00303020).touchesIceport ((fourLines 0x00303020).dcache.set0.lineAddress 0 0) 32 = false) := by
  refine ⟨⟨inv_fourLines _ rfl, ⟨?_, ?_, ?_, ?_, ?_, ?_, ?_, ?_⟩, ?_, ?_, ?_, ?_, ?_⟩,
    ⟨⟨?_, ?_, ?_, ?_, ?_, ?_, ?_, ?_⟩, ?_, ⟨?_, ?_⟩, ?_, ?_, ?_⟩⟩ <;> decide

/-- A build whose set has another size; an 8-Kbyte set and a page with va[12] unlike pa[12]. -/
def aliasing (size : Option (BitVec 2)) : State :=
  { tlbPremise with
    cp0 := { tlbPremise.cp0 with ccc := 0x00302C40 }
    tlb := tlbPremise.tlb.set 3 { tlbPremise.tlb[3] with pfn := 0x01235 }
    cfg := { Config.default with dcacheSize := size } }

/-- What an operation answers if it gives a value. -/
def answer {α : Type} (x : Res α) : Option (α × State) :=
  match x with
  | .ok a s => some (a, s)
  | _ => none

theorem ok_of_answer {α : Type} {x : Res α} {a : α} {s : State} (h : answer x = some (a, s)) : x = .ok a s := by
  cases x <;> simp_all [answer]

theorem witness_CachedStoreThenLoad_stops :
    (∀ size ∈ [none, some 0], ∀ store, (aliasing size).dataAddress 0x00400ABC 4 store = .ok (0x01235ABC, .writeThrough) (aliasing size)) ∧
      (aliasing none).reg 4 + (0#16).signExtend 32 = 0x00400ABC ∧ (aliasing none).dCaching = true ∧
      (aliasing none).env.pins.oca = none ∧ Ccc.isc (aliasing none).testMode = false ∧
      (aliasing none).dScratch 0x00400ABC (physOfStart 0x01235ABC 0x00400ABC) = none ∧
      (aliasing (some 0)).dSizeBuilt = false ∧ (aliasing none).dSizeBuilt = true ∧
      aliased (aliasing none).dsize 0x00400ABC 0x01235ABC = true := by
  refine ⟨fun size h store => ok_of_answer (by revert size store; decide), ?_, ?_, ?_, ?_, ?_, ?_, ?_, ?_⟩ <;> decide

/-- Fetches: a hit in each set, the scratchpad in kseg1, a miss with two Invalid lines and one with two valid ones. -/
theorem witness_CachedStoreThenLoad_fetch :
    (fourLines 0x00330000).Inv ∧
    ((fourLines 0x00330000).CachedFetch 0x80001000 ∧
      (fourLines 0x00330000).icache.hitWay true true 0 0x80001000 0x1000 = some false ∧
      (fourLines 0x00330000).CachedFetch 0x8000141C ∧
      (fourLines 0x00330000).icache.hitWay true true 0 0x8000141C 0x141C = some true) ∧
    ((fourLines 0x04300000).userMode = false ∧ (fourLines 0x04300000).iScratch 0xA0001400 0x1400 = true ∧
      (fourLines 0x04300000).iSizeBuilt = true) ∧
    ((fourLines 0x00330000).CachedFetch 0x80001020 ∧
      (fourLines 0x00330000).icache.hitWay true true 0 0x80001020 0x1020 = none ∧
      (fourLines 0x00330000).CachedFetch 0x80001800 ∧
      (fourLines 0x00330000).icache.hitWay true true 0 0x80001800 0x1800 = none ∧
      (fourLines 0x00330000).env.pins.hang = false ∧ (fourLines 0x00330000).env.pins.errFetch = false ∧
      (fourLines 0x00330000).touchesIceport (blockBase 0x1800) 32 = false ∧ (fourLines 0x00330000).iOn0 = true ∧
      (fourLines 0x00330000).iOn1 = true) := by
  refine ⟨inv_fourLines _ rfl, ⟨⟨?_, ?_, ?_, ?_, ?_, ?_⟩, ?_, ⟨?_, ?_, ?_, ?_, ?_, ?_⟩, ?_⟩, ⟨?_, ?_, ?_⟩,
    ⟨⟨?_, ?_, ?_, ?_, ?_, ?_⟩, ?_, ⟨?_, ?_, ?_, ?_, ?_, ?_⟩, ?_, ?_, ?_, ?_, ?_, ?_⟩⟩ <;> decide

theorem witness_IceportRegisters :
    Uart.reset.txReady = true ∧ Uart.reset.rxReady = false ∧ (Uart.reset.receive 0x5A).rxReady = true ∧
      (withPins (premise []) { Pins.quiet with warm := true }).env.pins.warm = true ∧
      (withPins (premise []) { Pins.quiet with cold := true }).env.pins.cold = true := by decide

/-- A byte that arrives while WRESETn is asserted is not received (60 R570). -/
theorem test_reset_holds_uart :
    let s := withPins (premise []) { Pins.quiet with rxBytes := [0x5A] }
    (s.runUart).uart.rxReady = true ∧
      (withPins s { s.env.pins with warm := true }).runUart.uart.rxReady = false ∧
      { s with warmLevel := true }.runUart.uart.rxReady = false := by decide

/-- A taken branch into the breakpoint range sets DCS.PC and DCS.DB at once, a jump there does not yet (60 R561). -/
theorem test_taken_branch_sets_pc :
    let s := { premise [] with
      cp0 := { (premise []).cp0 with dcs := 0x21800000, bpc := 0x80001010, bpcm := 0xFFFFFFFC } }
    let f (x : Result) := match x with
      | .next t => some (t.npc, t.cp0.dcs)
      | _ => none
    f (s.branch true 0x80001010) = some (0x80001010, 0x21800003) ∧
      f (s.branch false 0x80001010) = some (0x80001008, 0x21800003) ∧
      f (s.jump 0x80001010 false) = some (0x80001010, 0x21800000) := by decide

end Sys2Proof.Tests.Slice0
end

section
/-! The step keeps the invariant and the configuration (60 R511): from the meanings to the end of an instruction, to the
fetch, to the boundary. Then what the state after reset holds (10 R100). -/

namespace Sys2Proof.Machine

variable {c : Config} {s : State}

/-! ### One step (60 R511) -/

theorem Kept.execWord (h : Kept c s) (w : Word) : Result.Sat (Kept c) (execWord w s) := by
  unfold Machine.execWord
  split
  · exact h.exec _
  · exact h.execUnlisted _

/-- Debug is entered from `pre`, with the status bits the instruction noted in `t` (10 R40, 60 R561, R562). -/
theorem Kept.takeNotedDebug (h : Kept c s) (noted : Word) :
    Kept c (((s.setDcs (noted &&& 0x3F)).leakNext).takeDebug) :=
  (h.setDcs (Within.and_mask _ (by decide))).leakNext.takeDebug

/-- The end of a step keeps the invariant: every state it can answer comes from `pre` or from the outcome `r`. -/
theorem Kept.resolve {pre : State} {r : Result} (hpre : Kept c pre) (hr : Result.Sat (Kept c) r) :
    Result.Sat (Kept c) (pre.resolve r) := by
  cases hu : pre.resolve r with
  | next u =>
    obtain ⟨t, rfl, hcases⟩ := State.resolve_eq_next hu
    have ht : Kept c t := hr
    rcases hcases with rfl | rfl | rfl | rfl | rfl
    · exact ht.finish
    · exact (hpre.takeException .int).finish
    · exact hpre.takeEvi.finish
    · exact (hpre.takeNotedDebug _).finish
    · exact ht.ageHazards.finish
  | fault f => trivial
  | refused f => trivial

theorem Kept.runFetched (h : Kept c s) (w : Word) : Result.Sat (Kept c) (s.runFetched w) := by
  unfold State.runFetched
  split
  · exact (h.takeException .bus).finish
  · exact h.resolve (h.execWord w)

theorem Kept.runOne (h : Kept c s) : Result.Sat (Kept c) s.runOne := by
  have hfetch := h.fetch s.pc
  unfold State.runOne
  cases hx : s.fetch s.pc <;> rw [hx] at hfetch
  case ok w t => exact Kept.runFetched hfetch w
  case raise e t => exact Kept.resolve hfetch (Kept.raised hfetch e)
  case abandon t => exact Kept.resolve hfetch hfetch
  case fault f => trivial
  case refuse r => trivial

theorem Kept.boundary (h : Kept c s) : Result.Sat (Kept c) s.boundary :=
  State.boundary_sat (hcold := (h.levels true _).finish) (hcold' := (h.takeCold.levels false _).finish)
    (hwarm := (h.warmLevel true).finish) (hwarm' := (h.takeWarm.warmLevel false).finish)
    (hnmi := h.takeNmi.finish) (hidle := Kept.finish (s := { s with waitSlip := 0 }) h.congr)
    (hrun := h.beginStep.runOne)

theorem Kept.step (h : Kept c s) : Result.Sat (Kept c) (step s) := h.sample.boundary

/-- Settles O8: `Kept` bundles both conclusions, and the inputs, the boundary, the fetch and every meaning keep it. -/
theorem stepKeepsInvariant : Obligations.StepKeepsInvariant := by
  intro s t hs ht
  have h : Kept s.cfg s := ⟨hs, rfl⟩
  exact h.step.next ht

/-! ### The state after reset (10 R100) -/

theorem Cp0.reset_inv : Cp0.reset.Inv := by
  constructor
  case status => unfold Within; decide
  case random => exact Within.index 31
  all_goals exact Within.zero _

/-- A cache set no line of which was ever written. -/
theorem CacheSet.empty_inv : CacheSet.Inv { tags := [], data := [] } := ⟨rfl, rfl⟩

/-- Settles O9: the lists are empty, and the registers hold their reset values. -/
theorem resetHasInvariant : Obligations.ResetHasInvariant where
  memory := rfl
  icache0 := CacheSet.empty_inv
  icache1 := CacheSet.empty_inv
  dcache0 := CacheSet.empty_inv
  dcache1 := CacheSet.empty_inv
  uses := rfl
  zero := rfl
  cp0 := Cp0.reset_inv
  buffer := Nat.zero_le _
  itlb := Nat.zero_le _

/-- Status after reset (10 R51) selects Kernel mode, disables interrupts, and selects R4000 mode and the boot vectors. -/
theorem State.reset_mode : State.reset.kernelMode = true ∧ State.reset.intEnabled = false ∧ State.reset.r3000 = false ∧
    State.reset.bev = true := by decide

/-- Settles O10: the registers one by one, and the mode that Status and CCC give. -/
theorem resetState : Obligations.ResetState := by
  have hstatus : State.reset.cp0.status &&& 0xF0700004 = 0x00400004 := by decide
  have hrandom : State.reset.cp0.random = State.reset.cfg.tlbLast.zeroExtend 32 := by decide
  exact ⟨rfl, rfl, rfl, rfl, hstatus, hrandom, rfl, rfl, rfl, rfl, rfl, rfl, rfl, rfl, rfl, rfl, rfl, rfl, rfl,
    State.reset_mode⟩

end Sys2Proof.Machine
end

section
/-! The checks before an access and the addresses that need no TLB (20 R121, R141 to R144, R150, R155): what `translate`
answers branch by branch, which checks a data access raises, and that every load and store then raises the same. -/

namespace Sys2Proof.Machine

variable {s t : State} {va : Word} {k : Access} {iso store : Bool} {e : Exc}

/-! ### Translation, branch by branch (20 R150) -/

/-- An address in one of the eight 512-Mbyte segments lies in the 1-Gbyte one of its two upper bits. -/
theorem extract_upper_of_segment {x : BitVec 3} (h : va.extractLsb' 29 3 = x) :
    va.extractLsb' 30 2 = x.extractLsb' 1 2 := by
  subst h
  apply BitVec.eq_of_getLsbD_eq
  intro i hi
  simp only [BitVec.getLsbD_extractLsb', hi, decide_true, Bool.true_and, show 1 + i < 3 by omega,
    show 30 + i = 29 + (1 + i) by omega]

/-- The address in the low 512 Mbytes, as a mask and as an extension (20 R121). -/
theorem mask_eq_append (va : Word) : va &&& 0x1FFFFFFF = (0 : BitVec 3) ++ va.extractLsb' 0 29 := by
  apply BitVec.eq_of_toNat_eq
  rw [mask_toNat, BitVec.toNat_append, BitVec.extractLsb'_toNat]
  simp

/-- The checks before translation pass: a fetch is aligned, and User mode stays below 0x80000000. -/
def State.MayTranslate (s : State) (va : Word) (k : Access) : Prop :=
  (k = .fetch → va.toNat % 4 = 0) ∧ (s.userMode = true → va.getLsbD 31 = false)

theorem State.translate_misaligned (h : va.toNat % 4 ≠ 0) : s.translate va .fetch iso = .raise (.adel va) s := by
  simp [State.translate, aligned, h]

theorem State.translate_kernelAddress (hk : k = .fetch → va.toNat % 4 = 0) (hu : s.userMode = true)
    (hv : va.getLsbD 31 = true) : s.translate va k iso = .raise (addressError k va) s := by
  cases k <;> simp_all [State.translate, aligned]

/-- Behind the checks there are three ways: an unmapped segment, the TLB, the identity. -/
theorem State.translate_of (h : s.MayTranslate va k) :
    s.translate va k iso =
      if unmapped va then .ok (va &&& 0x1FFFFFFF, if inKseg1 va then .uncached else s.segAttr k) s
      else if s.tlbEnabled && !iso then (if k = .fetch then s.fetchLookup va else s.dataLookup va k)
      else .ok (va, s.segAttr k) s := by
  obtain ⟨halign, hmode⟩ := h
  have hfetch : (decide (k = .fetch) && !aligned 4 va) = false := by
    by_cases hk : k = .fetch <;> simp_all [aligned]
  have huser : (s.userMode && va.getLsbD 31) = false := by
    cases hu : s.userMode <;> simp_all
  simp only [State.translate, hfetch, huser, Bool.false_eq_true, if_false]

theorem State.translate_kseg1 (h : s.MayTranslate va k) (hv : va.extractLsb' 29 3 = 0b101#3) :
    s.translate va k iso = .ok ((0 : BitVec 3) ++ va.extractLsb' 0 29, .uncached) s := by
  have hun : unmapped va = true := beq_iff_eq.mpr (extract_upper_of_segment hv)
  have hk1 : inKseg1 va = true := beq_iff_eq.mpr hv
  rw [State.translate_of h, hun, hk1, mask_eq_append]
  rfl

theorem State.translate_kseg0 (h : s.MayTranslate va k) (hv : va.extractLsb' 29 3 = 0b100#3) :
    s.translate va k iso = .ok ((0 : BitVec 3) ++ va.extractLsb' 0 29, s.segAttr k) s := by
  have hun : unmapped va = true := beq_iff_eq.mpr (unmapped_of_kseg0 hv)
  rw [State.translate_of h, hun, inKseg1_of_kseg0 hv, mask_eq_append]
  rfl

theorem State.translate_identity (h : s.MayTranslate va k) (hv : va.extractLsb' 30 2 ≠ 0b10#2)
    (ht : s.tlbEnabled = false) : s.translate va k iso = .ok (va, s.segAttr k) s := by
  have hun : unmapped va = false := beq_eq_false_iff_ne.mpr hv
  rw [State.translate_of h, hun, ht]
  rfl

/-- A mapped address goes to the TLB. -/
theorem State.translate_mapped (h : s.MayTranslate va k) (hv : va.extractLsb' 30 2 ≠ 0b10#2)
    (ht : s.tlbEnabled = true) :
    s.translate va k false = if k = .fetch then s.fetchLookup va else s.dataLookup va k := by
  have hun : unmapped va = false := beq_eq_false_iff_ne.mpr hv
  rw [State.translate_of h, hun, ht]
  rfl

/-- A fetch whose translation raises ends there. -/
theorem State.fetchWord_raise (h : s.translate va .fetch (Ccc.isc s.cp0.ccc) = .raise e t) :
    s.fetchWord va = .raise e t := by
  rw [State.fetchWord, h, Res.raise_andThen]

theorem addressError_eq (k : Access) (va : Word) : addressError k va = if k = .store then .ades va else .adel va := by
  cases k <;> rfl

/-- Settles O48: the checks of a fetch's alignment and of the mode, then the branches of `translate` without the TLB. -/
theorem segmentTranslation : Obligations.SegmentTranslation := by
  intro s va k iso
  refine ⟨fun ha => ⟨State.translate_misaligned ha, State.fetchWord_raise (State.translate_misaligned ha)⟩,
    fun hk => ⟨fun hu hv => ?_, fun hmode => ?_⟩⟩
  · rw [State.translate_kernelAddress hk hu hv, addressError_eq]
  · have h : s.MayTranslate va k := ⟨hk, hmode⟩
    refine ⟨State.translate_kseg1 h, State.translate_kseg0 h, fun hv ht => State.translate_identity h hv ?_⟩
    exact Bool.and_eq_false_iff.mpr ht

/-! ### The checks of a data access (20 R141, R143, R144) -/

theorem State.dataAddress_misaligned {align : Nat} (h : va.toNat % align ≠ 0) :
    s.dataAddress va align store = .raise (addressError (if store then .store else .load) va) s := by
  simp [State.dataAddress, aligned, h]

theorem State.tlbSeen_userMode (s : State) : s.tlbSeen.userMode = s.userMode := by
  obtain ⟨tlb, hi, recent, h⟩ := s.tlbSeen_eq
  rw [h]
  rfl

theorem State.dataAddress_kernelAddress {align : Nat} (ha : va.toNat % align = 0) (hu : s.userMode = true)
    (hv : va.getLsbD 31 = true) :
    s.dataAddress va align store = .raise (addressError (if store then .store else .load) va) s := by
  have htr := State.translate_kernelAddress (s := s.tlbSeen) (va := va) (k := if store then .store else .load)
    (iso := Ccc.isc s.testMode) (by cases store <;> simp) (s.tlbSeen_userMode.trans hu) hv
  simp [State.dataAddress, aligned, ha, htr, Res.inState]

/-! ### An access whose checks raise (40 R270) -/

section Raises

variable {align n : Nat} {start v : Word} {base rt : BitVec 5} {off : BitVec 16}

theorem State.load_raise (h : s.dataAddress va align false = .raise e t) : s.load va start align n = .raise e t := by
  rw [State.load, h, Res.raise_andThen]

theorem State.store_raise (h : s.dataAddress va align true = .raise e t) : s.store va start align n v = .raise e t := by
  rw [State.store, h, Res.raise_andThen]

theorem State.loadInto_raise {ext : Word → Word} (h : s.dataAddress (s.ea base off) n false = .raise e t) :
    s.loadInto base rt off n ext = t.raised e := by
  simp [State.loadInto, State.load_raise h]

theorem State.loadMerge_raise {f : Word → Word → Word} (h : s.dataAddress va 1 false = .raise e t) :
    s.loadMerge va start n rt f = t.raised e := by
  simp [State.loadMerge, State.load_raise h]

theorem State.storeFrom_raise (h : s.dataAddress va align true = .raise e t) :
    s.storeFrom va start align n v = t.raised e := by
  simp [State.storeFrom, State.store_raise h]

theorem execLl_raise (h : s.dataAddress (s.ea base off) 4 false = .raise e t) : execLl base rt off s = t.raised e := by
  simp [execLl, State.load_raise h]

/-- SC makes the checks of SW whether or not the link is there. -/
theorem execSc_raise (h : s.dataAddress (s.ea base off) 4 true = .raise e t) : execSc base rt off s = t.raised e := by
  unfold execSc
  split
  · simp [State.store_raise h]
  · simp [h]

/-- A usable coprocessor that does not request its exception lets the instruction go on. -/
theorem State.withCop_usable {z : BitVec 2} (hu : s.copUsable z = true) (hf : (s.cpPresent z && s.env.pins.cpFault) = false)
    (x : Result) : s.withCop z x = x := by
  simp [State.withCop, hu, hf]

theorem State.loadCop_raise {z : BitVec 2} {w : Word} (hu : s.copUsable z = true)
    (hf : (s.cpPresent z && s.env.pins.cpFault) = false) (h : s.dataAddress (s.ea base off) 4 false = .raise e t) :
    s.loadCop z w base off = t.raised e := by
  simp [State.loadCop, State.withCop_usable hu hf, State.load_raise h]

theorem State.storeCop_raise {z : BitVec 2} {w : Word} (hu : s.copUsable z = true)
    (hf : (s.cpPresent z && s.env.pins.cpFault) = false) (h : s.dataAddress (s.ea base off) 4 true = .raise e t) :
    s.storeCop z w base off = t.raised e := by
  simp [State.storeCop, State.withCop_usable hu hf, State.store_raise h]

end Raises

/-! ### What an address error leaves unchanged (60 R520, R540) -/

/-- An instruction behind one that raises reaches no data: at most the TLB, Status and LLbit change (70 R632). -/
theorem State.leakNext_eq (s : State) : ∃ tlb status llbit recent,
    s.leakNext = { s with tlb := tlb, cp0 := { s.cp0 with status := status }, llbit := llbit, tlbRecent := recent } := by
  unfold State.leakNext
  repeat' split
  all_goals exact ⟨_, _, _, _, rfl⟩

/-- Nor does one whose HI and LO leak (60 R503). -/
theorem State.leakHiLo_eq (s : State) : ∃ hi lo, s.leakHiLo = s.setHiLo hi lo := by
  unfold State.leakHiLo
  repeat' split
  all_goals exact ⟨_, _, rfl⟩

/-- What an exception leaves alone: the general registers, memory, the write buffer and the D-cache. -/
def State.SameData (s t : State) : Prop := t.gpr = s.gpr ∧ t.mem = s.mem ∧ t.wbuf = s.wbuf ∧ t.dcache = s.dcache

theorem State.SameData.trans {u : State} (h : s.SameData t) (h' : t.SameData u) : s.SameData u := by
  obtain ⟨hg, hm, hw, hd⟩ := h
  obtain ⟨hg', hm', hw', hd'⟩ := h'
  exact ⟨hg'.trans hg, hm'.trans hm, hw'.trans hw, hd'.trans hd⟩

theorem State.leakNext_sameData (s : State) : s.SameData s.leakNext := by
  obtain ⟨tlb, status, llbit, recent, h⟩ := s.leakNext_eq
  rw [h]
  exact ⟨rfl, rfl, rfl, rfl⟩

theorem State.leakHiLo_sameData (s : State) : s.SameData s.leakHiLo := by
  obtain ⟨hi, lo, h⟩ := s.leakHiLo_eq
  rw [h]
  exact ⟨rfl, rfl, rfl, rfl⟩

/-- The exceptions that record `va` as the address that failed to be accessed (60 R520). -/
def Exc.IsAddressError (e : Exc) (va : Word) : Prop := e = .adel va ∨ e = .ades va

theorem State.record_addressError (h : e.IsAddressError va) : s.record e = (s.recordAddress va).recordBadPage := by
  rcases h with rfl | rfl <;> rfl

theorem State.recordBadPage_eq (s : State) : ∃ b v, s.recordBadPage = s.recordPage b v := by
  unfold State.recordBadPage
  split
  · exact ⟨_, _, rfl⟩
  · exact ⟨_, _, rfl⟩

/-- Entry keeps the data and BadVAddr as the record left them. -/
theorem State.enter_sameData (s t : State) (target cause epc : Word) (o : Outputs) :
    t.SameData (s.enter t target cause epc o) ∧ (s.enter t target cause epc o).cp0.badVAddr = t.cp0.badVAddr := by
  unfold State.enter
  split
  · exact ⟨⟨rfl, rfl, rfl, rfl⟩, rfl⟩
  · exact ⟨⟨rfl, rfl, rfl, rfl⟩, rfl⟩

/-- Recording an address error notes its address and leaves the data alone. -/
theorem State.record_sameData (h : e.IsAddressError va) :
    s.SameData (s.record e) ∧ (s.record e).cp0.badVAddr = va := by
  rw [State.record_addressError h]
  obtain ⟨b, v, hpage⟩ := (s.recordAddress va).recordBadPage_eq
  rw [hpage]
  exact ⟨⟨rfl, rfl, rfl, rfl⟩, rfl⟩

/-- Taking an address error notes its address and leaves the data alone. -/
theorem State.takeException_addressError (h : e.IsAddressError va) :
    s.SameData (s.takeException e) ∧ (s.takeException e).cp0.badVAddr = va := by
  obtain ⟨hrecord, hbad⟩ := State.record_sameData (s := s.leakHiLo) h
  obtain ⟨henter, hkept⟩ := State.enter_sameData s (s.leakHiLo.record e) (s.vectorBase + s.vectorOffset e)
    (s.causeOf e (s.restartInfo e).2.1 (s.restartInfo e).2.2) (s.restartInfo e).1
    { s.out with event := some (.exc e) }
  exact ⟨(s.leakHiLo_sameData.trans hrecord).trans henter, hkept.trans hbad⟩

/-- Settles O44: the alignment check comes first in every access, and the exception it raises changes no data. -/
theorem misalignedAccess : Obligations.MisalignedAccess := by
  intro s base rt off va hva
  obtain rfl : va = s.ea base off := hva
  refine ⟨fun h2 => ?_, fun h4 => ?_, fun e he => ?_⟩
  · have hload : s.dataAddress (s.ea base off) 2 false = .raise (.adel _) s := State.dataAddress_misaligned h2
    have hstore : s.dataAddress (s.ea base off) 2 true = .raise (.ades _) s := State.dataAddress_misaligned h2
    exact ⟨State.loadInto_raise hload, State.loadInto_raise hload, State.storeFrom_raise hstore⟩
  · have hload : s.dataAddress (s.ea base off) 4 false = .raise (.adel _) s := State.dataAddress_misaligned h4
    have hstore : s.dataAddress (s.ea base off) 4 true = .raise (.ades _) s := State.dataAddress_misaligned h4
    refine ⟨State.loadInto_raise hload, execLl_raise hload, State.storeFrom_raise hstore, execSc_raise hstore,
      fun p hp hu hf => ?_⟩
    simp only [List.mem_cons, List.not_mem_nil, or_false] at hp
    rcases hp with rfl | rfl | rfl
    all_goals exact ⟨State.loadCop_raise hu hf hload, State.storeCop_raise hu hf hstore⟩
  · obtain ⟨hdata, hbad⟩ := State.takeException_addressError (s := s.leakNext) he
    exact ⟨_, rfl, hbad, s.leakNext_sameData.trans hdata⟩

/-- Settles O45: in User mode the check of the mode follows that of the alignment, before anything is translated. -/
theorem userKernelAddress : Obligations.UserKernelAddress := by
  intro s base rt off va hva hu hv
  obtain rfl : va = s.ea base off := hva
  have hload : ∀ n, (s.ea base off).toNat % n = 0 → s.dataAddress (s.ea base off) n false = .raise (.adel _) s :=
    fun n ha => State.dataAddress_kernelAddress ha hu hv
  have hstore : ∀ n, (s.ea base off).toNat % n = 0 → s.dataAddress (s.ea base off) n true = .raise (.ades _) s :=
    fun n ha => State.dataAddress_kernelAddress ha hu hv
  have hload1 := hload 1 (Nat.mod_one _)
  have hstore1 := hstore 1 (Nat.mod_one _)
  refine ⟨fun ha => State.fetchWord_raise (State.translate_kernelAddress (fun _ => ha) hu hv), fun i hi => ?_,
    fun i hi => ?_, fun ha => ?_, fun ha => ?_⟩
  · simp only [List.mem_cons, List.not_mem_nil, or_false] at hi
    rcases hi with rfl | rfl | rfl | rfl
    · exact State.loadInto_raise hload1
    · exact State.loadInto_raise hload1
    · exact State.loadMerge_raise hload1
    · exact State.loadMerge_raise hload1
  · simp only [List.mem_cons, List.not_mem_nil, or_false] at hi
    rcases hi with rfl | rfl | rfl
    all_goals exact State.storeFrom_raise hstore1
  · exact ⟨State.loadInto_raise (hload 2 ha), State.loadInto_raise (hload 2 ha), State.storeFrom_raise (hstore 2 ha)⟩
  · exact ⟨State.loadInto_raise (hload 4 ha), execLl_raise (hload 4 ha), State.storeFrom_raise (hstore 4 ha),
      execSc_raise (hstore 4 ha)⟩

end Sys2Proof.Machine
end

section
/-! Translation through the TLB (10 R80 to R82, 20 R150 to R154): which entries the joint TLB finds, what the entry found
gives, and what a fetch takes from the instruction TLB. -/

namespace Sys2Proof.Machine

variable {s : State} {va : Word} {k : Access}

/-! ### The entries of the joint TLB that match (20 R152) -/

/-- Entry `i` is one of those built and matches (10 R80, 20 R152). -/
def State.Matches (s : State) (va : Word) (i : Fin 32) : Prop :=
  i.val ≤ s.cfg.tlbLast.toNat ∧ (s.tlb[i.val]'i.isLt).matchesVa s.asid va = true

theorem State.mem_tlbHits {p : TlbEntry × Nat} :
    p ∈ tlbHits s.tlb s.cfg.tlbLast s.asid va ↔ ∃ i : Fin 32, s.Matches va i ∧ p = (s.tlb[i.val]'i.isLt, i.val) := by
  obtain ⟨e, n⟩ := p
  simp only [tlbHits, List.mem_filter, Bool.and_eq_true, decide_eq_true_eq, List.mem_zipIdx_iff_getElem?]
  constructor
  · rintro ⟨hget, hlast, hmatch⟩
    obtain ⟨hn, rfl⟩ := List.getElem?_eq_some_iff.mp hget
    exact ⟨⟨n, by simpa using hn⟩, ⟨hlast, by simpa using hmatch⟩, by simp⟩
  · rintro ⟨i, ⟨hlast, hmatch⟩, hp⟩
    cases hp
    exact ⟨by simp, hlast, hmatch⟩

theorem State.nodup_tlbHits (s : State) (va : Word) : (tlbHits s.tlb s.cfg.tlbLast s.asid va).Nodup := by
  refine List.Nodup.filter _ (List.Nodup.of_map Prod.snd ?_)
  rw [List.zipIdx_map_snd]
  exact List.nodup_range'

theorem State.tlbHits_eq_nil (h : ∀ i, ¬s.Matches va i) : tlbHits s.tlb s.cfg.tlbLast s.asid va = [] := by
  refine List.eq_nil_iff_forall_not_mem.mpr fun p hp => ?_
  obtain ⟨i, hi, _⟩ := State.mem_tlbHits.mp hp
  exact h i hi

theorem State.tlbHits_eq_singleton {i : Fin 32} (hi : s.Matches va i) (h : ∀ j, j ≠ i → ¬s.Matches va j) :
    tlbHits s.tlb s.cfg.tlbLast s.asid va = [(s.tlb[i.val]'i.isLt, i.val)] := by
  refine List.perm_singleton.mp ((List.perm_ext_iff_of_nodup (s.nodup_tlbHits va) (List.nodup_singleton _)).mpr fun p => ?_)
  rw [State.mem_tlbHits, List.mem_singleton]
  constructor
  · rintro ⟨j, hj, rfl⟩
    obtain rfl : j = i := by
      by_contra hne
      exact h j hne hj
    rfl
  · rintro rfl
    exact ⟨i, hi, rfl⟩

theorem State.tlbHits_two {i j : Fin 32} (hij : i ≠ j) (hi : s.Matches va i) (hj : s.Matches va j) :
    ∃ p q l, tlbHits s.tlb s.cfg.tlbLast s.asid va = p :: q :: l := by
  have hpi := State.mem_tlbHits.mpr ⟨i, hi, rfl⟩
  have hpj := State.mem_tlbHits.mpr ⟨j, hj, rfl⟩
  cases hl : tlbHits s.tlb s.cfg.tlbLast s.asid va with
  | nil => simp [hl] at hpi
  | cons p l =>
    cases l with
    | cons q l => exact ⟨p, q, l, rfl⟩
    | nil =>
      rw [hl, List.mem_singleton] at hpi hpj
      have hval : i.val = j.val := congrArg Prod.snd (hpi.trans hpj.symm)
      exact absurd (Fin.ext hval) hij

/-- No entry matches, one does, or two do (10 R82). -/
theorem State.tlbHits_cases (s : State) (va : Word) :
    (∀ i, ¬s.Matches va i) ∨ (∃ i, s.Matches va i ∧ ∀ j, j ≠ i → ¬s.Matches va j) ∨
      ∃ i j, i ≠ j ∧ s.Matches va i ∧ s.Matches va j := by
  by_cases h : ∃ i, s.Matches va i
  · obtain ⟨i, hi⟩ := h
    by_cases h2 : ∃ j, j ≠ i ∧ s.Matches va j
    · obtain ⟨j, hne, hj⟩ := h2
      exact .inr (.inr ⟨j, i, hne, hj, hi⟩)
    · exact .inr (.inl ⟨i, hi, fun j hne hj => h2 ⟨j, hne, hj⟩⟩)
  · exact .inl fun i hi => h ⟨i, hi⟩

theorem State.not_matches_of {i : Fin 32}
    (h : i.val ≤ s.cfg.tlbLast.toNat → (s.tlb[i.val]'i.isLt).matchesVa s.asid va = false) : ¬s.Matches va i := by
  rintro ⟨hlast, hmatch⟩
  rw [h hlast] at hmatch
  cases hmatch

/-! ### The entry found (20 R153) -/

theorem State.useEntry_invalid {e : TlbEntry} (h : e.valid = false) :
    s.useEntry e va k = .raise (.tlbInvalid (k = .store) va) s := by
  simp [State.useEntry, h]

theorem State.useEntry_clean {e : TlbEntry} (h : e.valid = true) (hd : e.dirty = false) :
    s.useEntry e va .store = .raise (.mod va) s := by
  simp [State.useEntry, h, hd]

theorem State.useEntry_ok {e : TlbEntry} {a : Attr} (h : e.valid = true) (hd : k = .store → e.dirty = true)
    (ha : s.algAttr e.alg k = some a) : s.useEntry e va k = .ok (e.physOf va, a) s := by
  have hclean : (decide (k = .store) && !e.dirty) = false := by
    by_cases hk : k = .store
    · simp [hd hk]
    · simp [hk]
  simp [State.useEntry, h, hclean, ha]

/-! ### Loads and stores (20 R153) -/

theorem State.dataLookup_none (h : ∀ i, ¬s.Matches va i) :
    s.dataLookup va k = .raise (.tlbRefill (k = .store) va) s := by
  simp only [State.dataLookup, State.jointLookup, State.tlbHits_eq_nil h, Res.raise_andThen]

theorem State.dataLookup_one {i : Fin 32} (hi : s.Matches va i) (h : ∀ j, j ≠ i → ¬s.Matches va j) :
    s.dataLookup va k = s.useEntry (s.tlb[i.val]'i.isLt) va k := by
  simp only [State.dataLookup, State.jointLookup, State.tlbHits_eq_singleton hi h, Res.ok_andThen]

theorem State.dataLookup_two {i j : Fin 32} (hij : i ≠ j) (hi : s.Matches va i) (hj : s.Matches va j) :
    s.dataLookup va k = .refuse .tlbMultipleMatch := by
  obtain ⟨p, q, l, hl⟩ := State.tlbHits_two hij hi hj
  simp only [State.dataLookup, State.jointLookup, hl, Res.refuse_andThen]

/-! ### Fetches (10 R81, 20 R153) -/

/-- Two matches in the joint TLB stop a fetch, whatever the instruction TLB holds. -/
theorem State.fetchLookup_two {i j : Fin 32} (hij : i ≠ j) (hi : s.Matches va i) (hj : s.Matches va j) :
    s.fetchLookup va = .refuse .tlbMultipleMatch := by
  obtain ⟨p, q, l, hl⟩ := State.tlbHits_two hij hi hj
  cases hh : s.heldFor va <;> simp only [State.fetchLookup, hl, hh]

/-- Without two matches the entry the instruction TLB gives is used. -/
theorem State.fetchLookup_held {e : TlbEntry} (he : s.heldFor va = some e)
    (h : ∀ i j, i ≠ j → s.Matches va i → ¬s.Matches va j) :
    s.fetchLookup va = (s.touchItlb e).useEntry e va .fetch := by
  rcases s.tlbHits_cases va with hnone | ⟨i, hi, hone⟩ | ⟨i, j, hij, hi, hj⟩
  · simp only [State.fetchLookup, he, State.tlbHits_eq_nil hnone]
  · simp only [State.fetchLookup, he, State.tlbHits_eq_singleton hi hone]
  · exact absurd hj (h i j hij hi)

/-- The instruction TLB as the hardware may have emptied it (93 I37). -/
def State.heldState (s : State) : State := { s with itlb := s.heldEntries }

theorem State.fetchLookup_none (he : s.heldFor va = none) (h : ∀ i, ¬s.Matches va i) :
    s.fetchLookup va = .raise (.tlbRefill false va) s.heldState := by
  simp only [State.fetchLookup, he, State.tlbHits_eq_nil h]
  rfl

theorem State.fetchLookup_one {i : Fin 32} (he : s.heldFor va = none) (hi : s.Matches va i)
    (h : ∀ j, j ≠ i → ¬s.Matches va j) :
    s.fetchLookup va = (s.heldState.useEntry (s.tlb[i.val]'i.isLt) va .fetch).andThen fun r t =>
      .ok r (t.touchItlb (s.tlb[i.val]'i.isLt)) := by
  simp only [State.fetchLookup, he, State.tlbHits_eq_singleton hi h]
  rfl

/-- Entering an entry changes the instruction TLB alone. -/
theorem State.touchItlb_eq (s : State) (e : TlbEntry) : s.touchItlb e = { s with itlb := (s.touchItlb e).itlb } := by
  unfold State.touchItlb
  split <;> rfl

/-- So the C field of an entry means the same after it. -/
theorem State.algAttr_touchItlb (s : State) (e : TlbEntry) (c : BitVec 3) (k : Access) :
    (s.touchItlb e).algAttr c k = s.algAttr c k := by
  rw [s.touchItlb_eq e]
  rfl

/-- An entry of the current ASID comes to the front. -/
theorem State.touchItlb_head {e : TlbEntry} (h : e.isGlobal = true ∨ e.asid = s.cp0.entryHi.extractLsb' 0 8) :
    (s.touchItlb e).itlb.head? = some e := by
  have hc : (e.isGlobal || e.asid == s.cp0.entryHi.extractLsb' 0 8) = true := by simpa using h
  simp only [State.touchItlb, hc, if_true]
  rfl

/-- Nothing else enters. -/
theorem State.mem_touchItlb {e x : TlbEntry} (h : x ∈ (s.touchItlb e).itlb) : x = e ∨ x ∈ s.itlb := by
  unfold State.touchItlb at h
  split at h
  · rcases List.mem_cons.mp (List.mem_of_mem_take h) with rfl | hx
    · exact .inl rfl
    · exact .inr (List.mem_of_mem_filter hx)
  · exact .inr h

/-! ### The two halves of the statement -/

/-- A load or store through the joint TLB. -/
theorem State.translate_data (hk : k ≠ .fetch) (ht : s.tlbEnabled = true) (hmode : s.userMode = true → va.getLsbD 31 = false)
    (hv : va.extractLsb' 30 2 ≠ 0b10#2) : s.translate va k false = s.dataLookup va k := by
  rw [State.translate_mapped ⟨fun h => absurd h hk, hmode⟩ hv ht, if_neg hk]

/-- A fetch through the instruction TLB. -/
theorem State.translate_instr (ht : s.tlbEnabled = true) (ha : va.toNat % 4 = 0)
    (hmode : s.userMode = true → va.getLsbD 31 = false) (hv : va.extractLsb' 30 2 ≠ 0b10#2) :
    s.translate va .fetch false = s.fetchLookup va := by
  rw [State.translate_mapped ⟨fun _ => ha, hmode⟩ hv ht, if_pos rfl]

/-- Settles O49: the list of matching entries is empty, a single entry, or longer, and each lookup says what follows. -/
theorem tlbTranslation : Obligations.TlbTranslation := by
  constructor
  · intro s va k hk ht hmode hv
    rw [State.translate_data hk ht hmode hv]
    refine ⟨fun hnone => State.dataLookup_none fun i => State.not_matches_of (hnone i), ?_,
      fun i j hij hi hj hmi hmj => State.dataLookup_two hij ⟨hi, hmi⟩ ⟨hj, hmj⟩⟩
    rintro i e rfl hi hmatch hother
    rw [State.dataLookup_one ⟨hi, hmatch⟩ fun j hne => State.not_matches_of (hother j hne)]
    refine ⟨State.useEntry_invalid, ?_, fun hvalid hdirty a ha => State.useEntry_ok hvalid hdirty ha⟩
    rintro hvalid rfl hclean
    exact State.useEntry_clean hvalid hclean
  · intro s va ht ha hmode hv
    rw [State.translate_instr ht ha hmode hv]
    refine ⟨fun x l hheld hmulti => ?_, fun hheld => ?_,
      fun i j hij hi hj hmi hmj => State.fetchLookup_two hij ⟨hi, hmi⟩ ⟨hj, hmj⟩⟩
    · obtain ⟨e, he, hfor⟩ := (s.heldFor_of va).2 x l hheld
      have hlookup := State.fetchLookup_held hfor fun i j hij hi =>
        State.not_matches_of fun hj => hmulti i j hij hi.1 hj hi.2
      rw [hlookup]
      refine ⟨e, he, s.touchItlb e, s.touchItlb_eq e, State.useEntry_invalid, fun hvalid a hattr => ?_⟩
      exact State.useEntry_ok hvalid (fun h => nomatch h) ((s.algAttr_touchItlb e _ _).trans hattr)
    · have hfor : s.heldFor va = none := (s.heldFor_of va).1 (List.filter_eq_nil_iff.mpr fun e he => by simp [hheld e he])
      refine ⟨fun hnone => State.fetchLookup_none hfor fun i => State.not_matches_of (hnone i), ?_⟩
      rintro i e rfl hi hmatch hother
      rw [State.fetchLookup_one hfor ⟨hi, hmatch⟩ fun j hne => State.not_matches_of (hother j hne)]
      refine ⟨fun hinvalid => ?_, fun hvalid a hattr =>
        ⟨s.heldState.touchItlb _, s.heldState.touchItlb_eq _, State.touchItlb_head (s := s.heldState), fun x =>
          State.mem_touchItlb, ?_⟩⟩
      · rw [State.useEntry_invalid hinvalid]
        rfl
      · rw [State.useEntry_ok (s := s.heldState) (k := .fetch) hvalid (fun h => nomatch h) hattr]
        rfl

end Sys2Proof.Machine
end

section
/-! Store, then load (20 R180, R181, R205): what the write buffer holds after a store, that a load of the same word waits
for it, and the same in a scratchpad. -/

namespace Sys2Proof.Machine

variable {s t : State}

/-! ### Words and their bytes (20 R131) -/

theorem ofLowBytes_lowBytes (v : Word) : ofLowBytes (lowBytes 4 v) = v := by
  apply BitVec.eq_of_getLsbD_eq
  intro i hi
  rw [getLsbD_ofLowBytes _ _ hi, lowBytes_getElem?, if_pos (by omega), Option.getD_some, byteOf,
    BitVec.getLsbD_extractLsb', show 8 * (i / 8) + i % 8 = i by omega]
  simp [Nat.mod_lt]

/-- The bytes of a word make the word, in either byte order. -/
theorem ofBytes_toBytes (be : Bool) (v : Word) : ofBytes be (toBytes be 4 v) = v := by
  cases be <;> simp [ofBytes, toBytes, ofLowBytes_lowBytes]

/-! ### Draining in two parts (20 R180) -/

/-- A buffer whose next write is never answered stays as it is. -/
theorem State.drain_hangs (h : s.nextWriteHangs = true) (n : Nat) : s.drain n = s := by
  cases n with
  | zero => rfl
  | succ n => cases hw : s.wbuf <;> simp [State.drain, hw, h]

theorem State.drain_add (m n : Nat) : s.drain (m + n) = (s.drain m).drain n := by
  induction m generalizing s with
  | zero => rw [Nat.zero_add]; rfl
  | succ m ih =>
    rw [Nat.succ_add]
    cases hw : s.wbuf with
    | nil => rw [State.drain_nil hw, State.drain_nil hw, State.drain_nil hw]
    | cons e es =>
      by_cases hh : s.nextWriteHangs = true
      · rw [State.drain_hangs hh, State.drain_hangs hh, State.drain_hangs hh]
      · simp only [State.drain, hw, hh]
        exact ih

/-- A write to physical memory keeps the canonical form. -/
theorem State.physWrite_wf (h : Memory.wf s.mem = true) (e : WriteEntry) : Memory.wf (s.physWrite e).mem = true := by
  cases hr : s.iceportReg e.addr with
  | none => simpa only [State.physWrite, hr] using Memory.wf_writeBytes _ _ _ h
  | some r =>
    obtain ⟨u, o, h1⟩ := s.iceportWrite_eq r (ofBytes s.cfg.bigEndian (e.bytes.take 4))
    simp only [State.physWrite, hr]
    split
    · obtain ⟨u', o', h2⟩ := (s.iceportWrite r (ofBytes s.cfg.bigEndian (e.bytes.take 4))).iceportWrite_eq (r + 1)
        (ofBytes (s.iceportWrite r (ofBytes s.cfg.bigEndian (e.bytes.take 4))).cfg.bigEndian (e.bytes.drop 4))
      rw [h2, h1]
      exact h
    · rw [h1]
      exact h

/-- The oldest entry is written to memory. -/
theorem State.drain_one {e : WriteEntry} {es : List WriteEntry} (h : s.env.pins.errWrite = false)
    (hw : s.wbuf = e :: es) : s.drain 1 = State.physWrite { s with wbuf := es } e := by
  simp only [State.drain, hw, State.nextWriteHangs_of h, Bool.false_eq_true, if_false]
  exact State.endWrite_of (s := { s with wbuf := es }) h _

theorem State.drain_wf (h : s.env.pins.errWrite = false) (hm : Memory.wf s.mem = true) (n : Nat) :
    Memory.wf (s.drain n).mem = true := by
  induction n with
  | zero => exact hm
  | succ n ih =>
    obtain ⟨mem, uart, out, hn⟩ := State.drain_of h n
    rw [State.drain_add]
    cases hw : (s.drain n).wbuf with
    | nil => rwa [State.drain_nil hw]
    | cons e es =>
      rw [State.drain_one (by rw [hn]; exact h) hw]
      exact State.physWrite_wf (s := { s.drain n with wbuf := es }) ih e

/-- The youngest entry reaches memory last. -/
theorem State.drain_last {l : List WriteEntry} {e : WriteEntry} (h : s.env.pins.errWrite = false)
    (hm : Memory.wf s.mem = true) (hw : s.wbuf = l ++ [e]) (hp : s.iceportReg e.addr = none) :
    ∃ mem uart out, Memory.wf mem = true ∧
      s.drain (l.length + 1) = { s with wbuf := [], mem := Memory.writeBytes mem e.addr e.bytes, uart := uart, out := out } := by
  obtain ⟨mem, uart, out, hl⟩ := State.drain_of h l.length
  rw [hw, List.drop_left] at hl
  have hwf := State.drain_wf h hm l.length
  rw [hl] at hwf
  refine ⟨mem, uart, out, hwf, ?_⟩
  rw [State.drain_add, hl, State.drain_one (by exact h) rfl]
  have hp' : State.iceportReg { s with wbuf := [], mem := mem, uart := uart, out := out } e.addr = none := hp
  simp only [State.physWrite, hp']

/-! ### The entry a word store leaves (20 R180) -/

/-- Entry `e` carries the word store `new`: its own entry, or one half of the doubleword it was joined to. -/
structure WriteEntry.Carries (e new : WriteEntry) : Prop where
  le : e.addr.toNat ≤ new.addr.toNat
  sameDoubleword : e.addr.toNat / 8 = new.addr.toNat / 8
  inMemory : e.addr.toNat + e.bytes.length ≤ 2 ^ 32
  bytes : ∀ j < 4, e.bytes[new.addr.toNat - e.addr.toNat + j]? = new.bytes[j]?

theorem WriteEntry.carries_self {new : WriteEntry} (hl : new.bytes.length = 4) (ha : new.addr.toNat % 4 = 0) :
    new.Carries new where
  le := Nat.le_refl _
  sameDoubleword := rfl
  inMemory := by have := new.addr.isLt; omega
  bytes j _ := by rw [Nat.sub_self, Nat.zero_add]

theorem toNat_add_four {a : Word} (h : aligned 8 a = true) : (a + 4).toNat = a.toNat + 4 := by
  have hlt := a.isLt
  have hmod : a.toNat % 8 = 0 := by simpa [aligned] using h
  have h4 : (4 : Word).toNat = 4 := rfl
  rw [BitVec.toNat_add, h4]
  omega

/-- A joined entry carries the store that was joined to it. -/
theorem mergeEntry_carries {last new e : WriteEntry} (h : mergeEntry last new = some e) : e.Carries new := by
  unfold mergeEntry at h
  split at h
  · rename_i hlen
    simp only [Bool.and_eq_true, decide_eq_true_eq] at hlen
    obtain ⟨hlast, hnew⟩ := hlen
    split at h
    · rename_i hc
      simp only [Bool.and_eq_true, beq_iff_eq] at hc
      obtain ⟨halign, haddr⟩ := hc
      cases h
      have hnat := congrArg BitVec.toNat haddr
      rw [toNat_add_four halign] at hnat
      have hmod : last.addr.toNat % 8 = 0 := by simpa [aligned] using halign
      have hlt := last.addr.isLt
      refine ⟨?_, ?_, ?_, fun j _ => ?_⟩
      · dsimp only; omega
      · dsimp only; omega
      · simp only [List.length_append]; omega
      · dsimp only
        rw [show new.addr.toNat - last.addr.toNat + j = last.bytes.length + j by omega,
          List.getElem?_append_right (by omega), Nat.add_sub_cancel_left]
    · split at h
      · rename_i hc
        simp only [Bool.and_eq_true, beq_iff_eq] at hc
        cases h
        have hmod : new.addr.toNat % 8 = 0 := by simpa [aligned] using hc.1
        have hlt := new.addr.isLt
        refine ⟨Nat.le_refl _, rfl, ?_, fun j hj => ?_⟩
        · simp only [List.length_append]; omega
        · dsimp only
          rw [Nat.sub_self, Nat.zero_add, List.getElem?_append_left (by omega)]
      · cases h
  · cases h

/-- A word store is carried by the youngest entry of the buffer it enters. -/
theorem appendEntry_carries {new : WriteEntry} (hl : new.bytes.length = 4) (ha : new.addr.toNat % 4 = 0)
    (l : List WriteEntry) : ∃ es e, appendEntry new l = es ++ [e] ∧ e.Carries new := by
  induction l with
  | nil => exact ⟨[], new, rfl, WriteEntry.carries_self hl ha⟩
  | cons a l ih =>
    cases l with
    | nil =>
      cases hm : mergeEntry a new with
      | none => exact ⟨[a], new, by simp [appendEntry, hm], WriteEntry.carries_self hl ha⟩
      | some e => exact ⟨[], e, by simp [appendEntry, hm], mergeEntry_carries hm⟩
    | cons b l =>
      obtain ⟨es, e, happ, hcarries⟩ := ih
      exact ⟨a :: es, e, by simp only [appendEntry, happ, List.cons_append], hcarries⟩

section Carried

variable {e : WriteEntry} {pa : Word} {bs : List Byte}

/-- The entry lies where the store lies. -/
theorem WriteEntry.Carries.overlaps (h : e.Carries ⟨pa, bs⟩) (hl : bs.length = 4) (ha : pa.toNat % 4 = 0) :
    overlaps pa 4 e.addr e.bytes.length = true := by
  obtain ⟨hle, hdouble, -, hbytes⟩ := h
  have h0 := hbytes 0 (by omega)
  have hsome : (bs[0]?).isSome = true := by simp; omega
  simp only [← h0, Nat.add_zero, isSome_getElem?] at hsome
  simp only [Machine.overlaps, Bool.and_eq_true, decide_eq_true_eq]
  simp only at hsome hle
  omega

/-- It is no entry of the ICEport, whose sixteen bytes hold whole doublewords. -/
theorem WriteEntry.Carries.iceportReg (h : e.Carries ⟨pa, bs⟩) (hp : s.touchesIceport pa 4 = false) :
    s.iceportReg e.addr = none := by
  have hdouble : e.addr.toNat / 8 = pa.toNat / 8 := h.sameDoubleword
  have hblock : e.addr.extractLsb' 4 28 = pa.extractLsb' 4 28 := by
    apply BitVec.eq_of_toNat_eq
    simp only [BitVec.extractLsb'_toNat, Nat.shiftRight_eq_div_pow]
    omega
  have hnone := State.iceportReg_none hp (by omega)
  unfold State.iceportReg at hnone ⊢
  rw [hblock]
  split at hnone
  · cases hnone
  · rw [if_neg ‹_›]

/-- Once it has reached memory, the word reads as stored. -/
theorem WriteEntry.Carries.readBytes (h : e.Carries ⟨pa, bs⟩) (hl : bs.length = 4) (ha : pa.toNat % 4 = 0)
    {m : List Host.Cell} (hm : Memory.wf m = true) :
    Memory.readBytes (Memory.writeBytes m e.addr e.bytes) pa 4 = bs := by
  have hlt := pa.isLt
  have hle : e.addr.toNat ≤ pa.toNat := h.le
  apply List.ext_getElem?
  intro j
  rw [Memory.readBytes_getElem? _ _ _ _ (by omega)]
  split
  · rename_i hj
    have hbyte : e.bytes[pa.toNat - e.addr.toNat + j]? = bs[j]? := h.bytes j hj
    rw [Memory.read_writeBytes _ _ _ _ hm h.inMemory, if_pos (by omega),
      show pa.toNat + j - e.addr.toNat = pa.toNat - e.addr.toNat + j by omega, hbyte,
      List.getElem?_eq_getElem (by omega), Option.getD_some]
  · exact (List.getElem?_eq_none (by omega)).symm

end Carried

/-- Where the youngest entry overlaps a range, all of them must leave. -/
theorem pendingUpTo_last {pa : Word} {n : Nat} {e : WriteEntry} (h : overlaps pa n e.addr e.bytes.length = true)
    (l : List WriteEntry) : pendingUpTo pa n (l ++ [e]) = l.length + 1 := by
  induction l with
  | nil => simp [pendingUpTo, h]
  | cons a l ih => simp [pendingUpTo, ih]

/-! ### A store to memory and the load behind it (20 R180, R181) -/

/-- A word store of ordinary memory, whatever the buffer holds: it is carried by the youngest entry, and the rest of the
machine sees only what older entries do that leave to make room. -/
theorem State.push_word {pa : Word} {bs : List Byte} (he : s.env.pins.errWrite = false) (hm : Memory.wf s.mem = true)
    (hl : bs.length = 4) (ha : pa.toNat % 4 = 0) (hp : s.touchesIceport pa 4 = false) :
    ∃ es e mem uart out, e.Carries ⟨pa, bs⟩ ∧ Memory.wf mem = true ∧
      s.push pa bs = .ok () { s with wbuf := es ++ [e], mem := mem, uart := uart, out := out } := by
  have happ := appendEntry_carries (new := ⟨pa, bs⟩) hl ha
  unfold State.push
  rw [hl, hp]
  simp only [Bool.false_and, Bool.false_eq_true, if_false]
  split
  · obtain ⟨es, e, hes, hcarries⟩ := happ s.wbuf
    exact ⟨es, e, s.mem, s.uart, s.out, hcarries, hm, by rw [hes]⟩
  · obtain ⟨mem, uart, out, hd⟩ := State.drain_of he 1
    have hwf := State.drain_wf he hm 1
    obtain ⟨es, e, hes, hcarries⟩ := happ (s.wbuf.drop 1)
    rw [State.awaitDrain_of he, Res.ok_andThen, hd]
    rw [hd] at hwf
    exact ⟨es, e, mem, uart, out, hcarries, hwf, by rw [hes]⟩

/-- A load of the word that the youngest entry carries waits for it and reads it. -/
theorem State.uncachedLoad_carried {pa : Word} {bs : List Byte} {es : List WriteEntry} {e : WriteEntry}
    (he : s.env.pins.errWrite = false) (hm : Memory.wf s.mem = true) (hr : s.BusReads) (hw : s.wbuf = es ++ [e])
    (hc : e.Carries ⟨pa, bs⟩) (hl : bs.length = 4) (ha : pa.toNat % 4 = 0) (hp : s.touchesIceport pa 4 = false) :
    ∃ mem uart out, s.uncachedLoad pa 4 = .ok (some bs) { s with wbuf := [], mem := mem, uart := uart, out := out } := by
  obtain ⟨mem, uart, out, hwf, hd⟩ := State.drain_last he hm hw (hc.iceportReg hp)
  have hall : (if Ccc.ewp s.cp0.ccc then s.wbuf.length else pendingUpTo pa 4 s.wbuf) = es.length + 1 := by
    rw [hw, pendingUpTo_last (hc.overlaps hl ha), List.length_append, List.length_singleton, ite_self]
  refine ⟨Memory.writeBytes mem e.addr e.bytes, uart, out, ?_⟩
  unfold State.uncachedLoad State.orderRead
  rw [hall, State.awaitDrain_of he, hd, Res.ok_andThen,
    State.busRead_of (by exact hr.answers) (by exact hr.good) (by exact hp), Res.ok_andThen]
  simp only [Bool.false_eq_true, if_false, hc.readBytes hl ha hwf]

/-! ### Undisturbed uncached accesses (20 R121, R160, R161) -/

theorem unmapped_of_kseg1 {va : Word} (h : inKseg1 va = true) : va.extractLsb' 30 2 = 0b10#2 :=
  extract_upper_of_segment (beq_iff_eq.mp h)

theorem State.PlainAccess.dataAddress {va start : Word} {n align : Nat} {store : Bool} (hp : s.PlainAccess va start n)
    (ha : va.toNat % align = 0) : s.dataAddress va align store = .ok (va &&& 0x1FFFFFFF, .uncached) s := by
  rw [State.dataAddress_quiet ha hp.kernel (unmapped_of_kseg1 hp.segment) hp.noDebug, if_pos hp.segment]

/-- A load goes to the bus. -/
theorem State.load_plain {va start : Word} {n align : Nat} (hp : s.PlainAccess va start n) (ha : va.toNat % align = 0) :
    s.load va start align n = (s.uncachedLoad (physOfStart (va &&& 0x1FFFFFFF) start) n).andThen fun bs t =>
      .ok (bs.map (ofBytes t.cfg.bigEndian), (va &&& 0x1FFFFFFF, .uncached)) t := by
  unfold State.load
  rw [hp.dataAddress ha, Res.ok_andThen]
  unfold State.readData
  rw [hp.noOca, hp.notIsolated, hp.noScratch]
  rfl

/-- A store goes to the write buffer. -/
theorem State.store_plain {va start v : Word} {n align : Nat} (hp : s.PlainAccess va start n)
    (ha : va.toNat % align = 0) :
    s.store va start align n v = s.push (physOfStart (va &&& 0x1FFFFFFF) start) (toBytes s.cfg.bigEndian n v) := by
  unfold State.store
  rw [hp.dataAddress ha, Res.ok_andThen]
  unfold State.writeData
  rw [hp.noOca, hp.notIsolated, hp.noScratch]
  rfl

/-- What a word access answers is what SW and LW answer. -/
theorem exec_sw_of {base rt : BitVec 5} {off : BitVec 16} {u : Unit}
    (h : s.store (s.ea base off) (s.ea base off) 4 4 (s.reg rt) = .ok u t) : exec (.sw base rt off) s = .next t.advance := by
  change State.storeFrom s _ _ 4 4 _ = _
  rw [State.storeFrom, h]
  rfl

theorem exec_lw_of {base rt : BitVec 5} {off : BitVec 16} {v : Word} {p : Word × Attr}
    (h : s.load (s.ea base off) (s.ea base off) 4 4 = .ok (some v, p) t) :
    exec (.lw base rt off) s = .next (t.setReg rt v).advance := by
  change State.loadInto s base rt off 4 id = _
  simp only [State.loadInto, h]
  rfl

/-- In memory: the store's entry is the youngest of the buffer, and the load waits for it. -/
theorem uncachedStoreThenLoad {base rt : BitVec 5} {off : BitVec 16} {va : Word} (rt' : BitVec 5)
    (hva : va = s.ea base off) (ha : va.toNat % 4 = 0) (hm : Memory.wf s.mem = true) (hp : s.PlainAccess va va 4)
    (hr : s.BusReads) (he : s.env.pins.errWrite = false) :
    ∃ t u, exec (.sw base rt off) s = .next t ∧ exec (.lw base rt' off) t = .next u ∧ s.Sequential t ∧ t.Sequential u ∧
      ∀ k, u.reg k = if k = rt' ∧ rt' ≠ 0 then s.reg rt else s.reg k := by
  subst hva
  have hpa : (physOfStart (s.ea base off &&& 0x1FFFFFFF) (s.ea base off)).toNat % 4 = 0 := by
    rw [physOfStart_eq rfl, mask_toNat]
    omega
  obtain ⟨es, e, mem, uart, out, hcarries, hwf, hpush⟩ := State.push_word
    (bs := toBytes s.cfg.bigEndian 4 (s.reg rt)) he hm (length_toBytes _ _ _) hpa hp.noPort
  have hstore := (State.store_plain (v := s.reg rt) hp ha).trans hpush
  generalize hs1 : State.advance { s with wbuf := es ++ [e], mem := mem, uart := uart, out := out } = s1
  have hp1 : s1.PlainAccess (s.ea base off) (s.ea base off) 4 := by
    subst hs1
    exact ⟨hp.kernel, hp.segment, hp.noDebug, hp.noOca, hp.notIsolated, hp.noScratch, hp.noPort⟩
  obtain ⟨mem', uart', out', hload⟩ := State.uncachedLoad_carried (s := s1) (by subst hs1; exact he)
    (by subst hs1; exact hwf) (by subst hs1; exact ⟨hr.answers, hr.good⟩) (by subst hs1; rfl) hcarries
    (length_toBytes _ _ _) hpa hp1.noPort
  have hload1 := State.load_plain hp1 ha
  rw [hload, Res.ok_andThen, Option.map_some,
    show (State.cfg { s1 with wbuf := [], mem := mem', uart := uart', out := out' }).bigEndian = s.cfg.bigEndian by
      subst hs1; rfl, ofBytes_toBytes] at hload1
  have hea : s1.ea base off = s.ea base off := by subst hs1; rfl
  refine ⟨s1, _, hs1 ▸ exec_sw_of hstore, exec_lw_of (hea ▸ hload1), ?_, ?_, fun k => ?_⟩
  · subst hs1
    exact ⟨rfl, rfl, rfl, rfl⟩
  · simp [State.Sequential]
  · rw [State.reg_advance, State.reg_setReg]
    subst hs1
    rfl

/-! ### Scratchpads (20 R205) -/

section Scratchpad

variable {va : Word} {w : Bool}

theorem State.ScratchAccess.dataAddress {align : Nat} {store : Bool} (hc : s.ScratchAccess va w)
    (ha : va.toNat % align = 0) :
    s.dataAddress va align store = .ok (va &&& 0x1FFFFFFF, if inKseg1 va then .uncached else s.segAttr .load) s :=
  State.dataAddress_quiet ha hc.kernel hc.segment hc.noDebug

/-- A load reads the scratchpad and changes nothing. -/
theorem State.load_scratch {n align : Nat} (hc : s.ScratchAccess va w) (ha : va.toNat % align = 0) :
    ∃ p, s.load va va align n =
      .ok (some (ofBytes s.cfg.bigEndian ((s.dcache.way w).readData (offsetOf s.dsize va) n)), p) s := by
  refine ⟨(va &&& 0x1FFFFFFF, if inKseg1 va then .uncached else s.segAttr .load), ?_⟩
  unfold State.load
  rw [hc.dataAddress ha, Res.ok_andThen, physOfStart_eq rfl]
  unfold State.readData
  rw [hc.noOca, hc.notIsolated, hc.covers, hc.built]
  rfl

/-- A store writes the scratchpad and nothing else. -/
theorem State.store_scratch {n align : Nat} {v : Word} (hc : s.ScratchAccess va w) (ha : va.toNat % align = 0) :
    s.store va va align n v = .ok () (s.setDWay w
      ((s.dcache.way w).writeData (offsetOf s.dsize va) (toBytes s.cfg.bigEndian n v))) := by
  unfold State.store
  rw [hc.dataAddress ha, Res.ok_andThen, physOfStart_eq rfl]
  unfold State.writeData
  rw [hc.noOca, hc.notIsolated, hc.covers, hc.built]
  rfl

/-- A set covers the same addresses after its data are written. -/
theorem State.ScratchAccess.writeData (hc : s.ScratchAccess va w) (off : Nat) (bs : List Byte) :
    (s.setDWay w ((s.dcache.way w).writeData off bs)).advance.ScratchAccess va w where
  kernel := hc.kernel
  segment := hc.segment
  noDebug := hc.noDebug
  noOca := hc.noOca
  notIsolated := hc.notIsolated
  covers := by
    have hcovers := hc.covers
    cases w <;> exact hcovers
  built := hc.built

/-- Bytes written to a set are read back. -/
theorem CacheSet.Inv.readData_writeData {c : CacheSet} (h : c.Inv) (off : Nat) (bs : List Byte) :
    (c.writeData off bs).readData off bs.length = bs := by
  apply List.ext_getElem?
  intro j
  rw [CacheSet.readData_getElem?]
  split
  · rename_i hj
    rw [h.dataAfter off bs, if_pos (Nat.le_add_right _ _), Nat.add_sub_cancel_left]
    simp [hj]
  · exact (List.getElem?_eq_none (by omega)).symm

/-- In a scratchpad: the store writes the set, and the load reads it. -/
theorem scratchStoreThenLoad {base rt : BitVec 5} {off : BitVec 16} (rt' : BitVec 5) (hva : va = s.ea base off)
    (ha : va.toNat % 4 = 0) (hi : s.Inv) (hc : s.ScratchAccess va w) :
    ∃ t u, exec (.sw base rt off) s = .next t ∧ exec (.lw base rt' off) t = .next u ∧
      s.AccessFrame t ∧ t.gpr = s.gpr ∧ t.mem = s.mem ∧ t.wbuf = s.wbuf ∧ t.dcache.way (!w) = s.dcache.way (!w) ∧
      (t.dcache.way w).tags = (s.dcache.way w).tags ∧
      (DataAfter (s.dcache.way w) (t.dcache.way w) (offsetOf s.dsize va) fun j =>
        if j < 4 then some (byteOf (s.reg rt) (if s.cfg.bigEndian then 3 - j else j)) else none) ∧
      t.AccessFrame u ∧ u.mem = t.mem ∧ u.wbuf = t.wbuf ∧ u.dcache = t.dcache ∧
      ∀ k, u.reg k = if k = rt' ∧ rt' ≠ 0 then s.reg rt else s.reg k := by
  subst hva
  have hset := Kept.dcacheInv hi w
  have hback := hset.readData_writeData (offsetOf s.dsize (s.ea base off)) (toBytes s.cfg.bigEndian 4 (s.reg rt))
  have hdata := hset.dataAfter (offsetOf s.dsize (s.ea base off)) (toBytes s.cfg.bigEndian 4 (s.reg rt))
  have hc1 := hc.writeData (offsetOf s.dsize (s.ea base off)) (toBytes s.cfg.bigEndian 4 (s.reg rt))
  have hsw := exec_sw_of (State.store_scratch (v := s.reg rt) hc ha)
  rw [length_toBytes] at hback
  simp only [toBytes_getElem?] at hdata
  generalize hx : (s.dcache.way w).writeData (offsetOf s.dsize (s.ea base off))
    (toBytes s.cfg.bigEndian 4 (s.reg rt)) = x at *
  have htags : x.tags = (s.dcache.way w).tags := by rw [← hx]; rfl
  obtain ⟨p, hload⟩ := State.load_scratch (n := 4) hc1 ha
  have hval : ofBytes (s.setDWay w x).advance.cfg.bigEndian
      (((s.setDWay w x).advance.dcache.way w).readData (offsetOf (s.setDWay w x).advance.dsize (s.ea base off)) 4) =
        s.reg rt := by
    rw [State.advance_dcache, State.dcache_setDWay, Cache.way_setWay]
    exact (congrArg _ hback).trans (ofBytes_toBytes _ _)
  rw [hval] at hload
  refine ⟨_, _, hsw, exec_lw_of hload, ⟨⟨rfl, rfl, rfl, rfl⟩, rfl⟩, rfl, rfl, rfl, ?_, ?_, ?_, ⟨?_, ?_⟩, ?_, ?_, ?_,
    fun k => ?_⟩
  · exact Cache.way_setWay_other _ _ _
  · rw [State.advance_dcache, State.dcache_setDWay, Cache.way_setWay, htags]
  · rw [State.advance_dcache, State.dcache_setDWay, Cache.way_setWay]
    exact hdata
  · simp [State.Sequential]
  · unfold State.setReg
    split <;> rfl
  · simp
  · simp
  · simp
  · rw [State.reg_advance, State.reg_setReg]
    rfl

end Scratchpad

/-- Settles O43: the store waits in the buffer or stands in the scratchpad, and the load finds it there. -/
theorem storeThenLoad : Obligations.StoreThenLoad :=
  ⟨fun _ _ _ rt' _ _ hva ha hm hp hr he => uncachedStoreThenLoad rt' hva ha hm hp hr he,
    fun _ _ _ rt' _ _ _ hva ha hi hc => scratchStoreThenLoad rt' hva ha hi hc⟩

end Sys2Proof.Machine
end

section
/-! Cached loads, stores and fetches (20 R155, R162, R170 to R175, R205): each width of access from the lemma about its
hit, its miss or its stop. -/

namespace Sys2Proof.Machine

variable {s t : State} {va : Word} {base rt : BitVec 5} {off : BitVec 16}

/-! ### Loads (20 R172, R175) -/

/-- A load that leaves the state as it is but for its register. -/
theorem State.yields_of {i : Instr} {r : BitVec 5} {v : Word} (h : exec i s = .next (s.setReg r v).advance) :
    s.Yields i r v := by
  refine ⟨_, h, fun k => ?_, ?_, ?_, ?_, fun a => ?_, ?_⟩
  · rw [State.reg_advance, State.reg_setReg]
  · simp
  · simp
  · simp [State.Sequential]
  · simp
  · unfold State.setReg
    split <;> rfl

/-- Loads of every width that hit. -/
theorem State.loads_hit {w : Bool} {b : Nat → Byte} (hva : va = s.ea base off) (hc : s.CachedAccess va)
    (hw : s.dcache.hitWay s.dOn0 s.dOn1 s.dsize va (va &&& 0x1FFFFFFF) = some w)
    (hb : b = fun k => Sparse.get 0 (s.dcache.way w).data (offsetOf s.dsize (wordBase va) + k)) :
    ∀ f ∈ loadForms s.cfg.bigEndian b (s.reg rt) va base rt off, va.toNat % f.1 = 0 → s.Yields f.2.1 rt f.2.2 :=
  fun f hf ha => State.yields_of (loadForms_exec hva rfl
    (fun _ _ _ hstart _ _ halign => State.load_hit hc hw hb halign hstart) f hf ha)

/-- A line's 32 bytes written to memory, byte by byte. -/
theorem Memory.read_writeLine {m : List Host.Cell} (hm : Memory.wf m = true) (c : CacheSet) (size line a : Nat) :
    Memory.read (Memory.writeBytes m (c.lineAddress size line) (c.readData (lineOffset line) 32)) a =
      if (c.lineAddress size line).toNat ≤ a ∧ a < (c.lineAddress size line).toNat + 32
      then Sparse.get 0 c.data (32 * line + (a - (c.lineAddress size line).toNat)) else Memory.read m a := by
  have hle := c.lineAddress_le size line
  rw [Memory.read_writeBytes _ _ _ _ hm (by rw [CacheSet.length_readData]; exact hle), CacheSet.readData_getElem?]
  generalize (c.lineAddress size line).toNat = q
  by_cases hq : q ≤ a
  · by_cases hlt : a < q + 32
    · rw [if_pos hq, if_pos (by omega), if_pos ⟨hq, hlt⟩]
      rfl
    · rw [if_pos hq, if_neg (by omega), if_neg (by omega)]
      rfl
  · rw [if_neg hq, if_neg (by omega)]

/-- Loads of every width that miss: once the line is filled they read it. -/
theorem State.loads_miss {p : Word} {w : Bool} {line : Nat} {m : List Host.Cell} {x : CacheSet} {b : Nat → Byte}
    (hva : va = s.ea base off) (hp : p = va &&& 0x1FFFFFFF) (hl : line = lineOf s.dsize va) (hc : s.CachedAccess va)
    (hn : s.dcache.hitWay s.dOn0 s.dOn1 s.dsize va p = none) (hw : w = s.dVictim)
    (hfill : s.dFill va p = .ok false { s with mem := m, dcache := s.dcache.setWay w x })
    (hx : FilledFrom (s.dcache.way w) x line p m) (hb : b = fun k => Memory.read m ((wordBase p).toNat + k)) :
    ∀ f ∈ loadForms s.cfg.bigEndian b (s.reg rt) va base rt off, va.toNat % f.1 = 0 →
      exec f.2.1 s = .next (State.setReg { s with mem := m, dcache := s.dcache.setWay w x } rt f.2.2).advance := by
  subst hp
  have hmod : (va &&& 0x1FFFFFFF).toNat % 32 = va.toNat % 32 := by
    rw [mask_toNat]
    omega
  have hbytes : ∀ j < 4, Sparse.get 0 x.data (offsetOf s.dsize (wordBase va) + j) = b j := by
    subst hb
    exact fun j hj => hx.word hl hmod hj
  refine loadForms_exec (p := (va &&& 0x1FFFFFFF, s.segAttr .load)) hva rfl fun start n align hstart hfits _ ha => ?_
  rw [State.load_miss hc hn hw ((State.dFill_congr hstart).trans hfill) rfl ha hstart]
  rw [bytesFrom_congr fun j hj => hbytes j (by omega)]

/-! ### Stores (20 R173) -/

/-- The bytes `bs` from `start` on are those a store in the word of `va` puts at the places `f` counts from `a`. -/
structure StoresBytes (va a : Word) (f : Nat → Option Byte) (start : Word) (bs : List Byte) : Prop where
  startWord : wordBase start = wordBase va
  baseWord : wordBase a = wordBase va
  fits : start.toNat % 4 + bs.length ≤ 4
  nonempty : 0 < bs.length
  le : a.toNat ≤ start.toNat
  bytes : ∀ j, f j = if start.toNat - a.toNat ≤ j then bs[j - (start.toNat - a.toNat)]? else none

/-- A store of any width that the D-cache takes. -/
theorem State.stores_cached (hva : va = s.ea base off) (hc : s.CachedAccess va) :
    ∀ f ∈ storeForms s.cfg.bigEndian (s.reg rt) va base rt off, va.toNat % f.1 = 0 → ∃ (start : Word) (bs : List Byte),
      StoresBytes va f.2.2.1 f.2.2.2 start bs ∧
      ∀ u t, s.cachedStore start (start &&& 0x1FFFFFFF) bs (Ccc.wb s.cp0.ccc) = .ok u t → exec f.2.1 s = .next t.advance := by
  intro f hf ha
  obtain ⟨start, bs, hstart, hbase, hfits, hpos, hle, hbytes, hexec⟩ := storeForms_exec hva rfl f hf ha
  refine ⟨start, bs, ⟨hstart, hbase, hfits, hpos, hle, hbytes⟩, fun u t ht => ?_⟩
  rw [hexec, State.dataAddress_cached hc ha, Res.ok_andThen]
  dsimp only
  rw [State.write_cached hc hstart, ht]
  rfl

namespace StoresBytes

variable {a start : Word} {f : Nat → Option Byte} {bs : List Byte}

theorem dataAfter (h : StoresBytes va a f start bs) {c : CacheSet} (hi : c.Inv) (size : Nat) :
    DataAfter c (c.writeData (offsetOf size start) bs) (offsetOf size a) f :=
  dataAfter_word hi.data h.startWord h.baseWord h.le h.bytes

theorem noPort (h : StoresBytes va a f start bs) (hp : s.touchesIceport (wordBase (va &&& 0x1FFFFFFF)) 4 = false) :
    s.touchesIceport (start &&& 0x1FFFFFFF) bs.length = false :=
  State.touchesIceport_word hp h.startWord h.fits

/-- The store alone in the buffer is what memory will take. -/
theorem memoryAfter (h : StoresBytes va a f start bs) (hm : Memory.wf s.mem = true) (he : s.env.pins.errWrite = false)
    (hp : s.touchesIceport (wordBase (va &&& 0x1FFFFFFF)) 4 = false) (hmem : t.mem = s.mem)
    (hbuf : t.wbuf = [⟨start &&& 0x1FFFFFFF, bs⟩]) (henv : t.env = s.env) (hcfg : t.cfg = s.cfg) :
    s.MemoryAfter t (a &&& 0x1FFFFFFF) f := by
  have hstart := mask_toNat start
  have ha := mask_toNat a
  have hword := div4_of_wordBase (h.startWord.trans h.baseWord.symm)
  have hfits := h.fits
  have hle := h.le
  have hport : t.iceportReg (start &&& 0x1FFFFFFF) = none := by
    have hnone := State.iceportReg_none (h.noPort hp) h.nonempty
    unfold State.iceportReg at hnone ⊢
    rwa [hcfg]
  refine State.memoryAfter_of hmem hm hbuf (henv ▸ he) hport (by omega) (by omega) fun j => ?_
  rw [h.bytes j, show (start &&& 0x1FFFFFFF).toNat - (a &&& 0x1FFFFFFF).toNat = start.toNat - a.toNat by omega]

end StoresBytes

/-- Stores of every width that hit in write-back mode. -/
theorem State.stores_back {p : Word} {line : Nat} {w : Bool} (hva : va = s.ea base off) (hp : p = va &&& 0x1FFFFFFF)
    (hl : line = lineOf s.dsize va) (hi : s.Inv) (hc : s.CachedAccess va)
    (hw : s.dcache.hitWay s.dOn0 s.dOn1 s.dsize va p = some w) (hwb : s.cp0.ccc.getLsbD 5 = true) :
    ∀ f ∈ storeForms s.cfg.bigEndian (s.reg rt) va base rt off, va.toNat % f.1 = 0 →
      ∃ t, exec f.2.1 s = .next t ∧ s.AccessFrame t ∧ t.gpr = s.gpr ∧ t.mem = s.mem ∧ t.wbuf = s.wbuf ∧
        t.dcache.way (!w) = s.dcache.way (!w) ∧
        TagAfter (s.dcache.way w) (t.dcache.way w) line { (s.dcache.way w).tagAt line with dirty := true } ∧
        DataAfter (s.dcache.way w) (t.dcache.way w) (offsetOf s.dsize f.2.2.1) f.2.2.2 := by
  intro f hf ha
  obtain ⟨start, bs, hbytes, hexec⟩ := State.stores_cached hva hc f hf ha
  have hset := Kept.dcacheInv hi w
  have hway : s.dcache.hitWay s.dOn0 s.dOn1 s.dsize start (start &&& 0x1FFFFFFF) = some w := by
    rw [Cache.hitWay_congr _ hbytes.startWord (wordBase_mask hbytes.startWord _), ← hp, hw]
  have hstore := State.cachedStore_back (bs := bs) hway
  rw [lineOf_congr hbytes.startWord, ← hl] at hstore
  refine ⟨_, hexec _ _ ((congrArg _ hwb).trans hstore), ⟨⟨rfl, rfl, rfl, rfl⟩, rfl⟩, rfl, rfl, rfl, ?_, ?_, ?_⟩
  · exact Cache.way_setWay_other _ _ _
  · rw [State.advance_dcache, State.dcache_setDWay, Cache.way_setWay]
    exact (hset.writeData _ _).tagAfter line _
  · rw [State.advance_dcache, State.dcache_setDWay, Cache.way_setWay]
    exact hbytes.dataAfter hset s.dsize

/-- Stores of every width that hit in write-through mode. -/
theorem State.stores_through {p : Word} {w : Bool} (hva : va = s.ea base off) (hp : p = va &&& 0x1FFFFFFF) (hi : s.Inv)
    (hc : s.CachedAccess va) (hw : s.dcache.hitWay s.dOn0 s.dOn1 s.dsize va p = some w)
    (hwb : s.cp0.ccc.getLsbD 5 = false) (hbuf : s.wbuf = []) (hport : s.touchesIceport (wordBase p) 4 = false)
    (he : s.env.pins.errWrite = false) :
    ∀ f ∈ storeForms s.cfg.bigEndian (s.reg rt) va base rt off, va.toNat % f.1 = 0 →
      ∃ t, exec f.2.1 s = .next t ∧ s.AccessFrame t ∧ t.gpr = s.gpr ∧ s.SameMemory t ∧
        t.dcache.way (!w) = s.dcache.way (!w) ∧ (t.dcache.way w).tags = (s.dcache.way w).tags ∧
        DataAfter (s.dcache.way w) (t.dcache.way w) (offsetOf s.dsize f.2.2.1) f.2.2.2 ∧
        s.MemoryAfter t (f.2.2.1 &&& 0x1FFFFFFF) f.2.2.2 := by
  subst hp
  intro f hf ha
  obtain ⟨start, bs, hbytes, hexec⟩ := State.stores_cached hva hc f hf ha
  have hway : s.dcache.hitWay s.dOn0 s.dOn1 s.dsize start (start &&& 0x1FFFFFFF) = some w := by
    rw [Cache.hitWay_congr _ hbytes.startWord (wordBase_mask hbytes.startWord _), hw]
  have hstore := State.cachedStore_through hway hbuf (hbytes.noPort hport)
  refine ⟨_, hexec _ _ ((congrArg _ hwb).trans hstore), ⟨⟨rfl, rfl, rfl, rfl⟩, rfl⟩, rfl, fun _ => rfl, ?_, ?_, ?_,
    hbytes.memoryAfter hi.memory he hport rfl rfl rfl rfl⟩
  · exact Cache.way_setWay_other _ _ _
  · rw [State.advance_dcache, Cache.way_setWay, CacheSet.writeData_tags]
  · rw [State.advance_dcache, Cache.way_setWay]
    exact hbytes.dataAfter (Kept.dcacheInv hi w) s.dsize

/-- Stores of every width that miss. -/
theorem State.stores_miss {p : Word} (hva : va = s.ea base off) (hp : p = va &&& 0x1FFFFFFF) (hi : s.Inv)
    (hc : s.CachedAccess va) (hn : s.dcache.hitWay s.dOn0 s.dOn1 s.dsize va p = none) (hbuf : s.wbuf = [])
    (hport : s.touchesIceport (wordBase p) 4 = false) (he : s.env.pins.errWrite = false) :
    ∀ f ∈ storeForms s.cfg.bigEndian (s.reg rt) va base rt off, va.toNat % f.1 = 0 →
      ∃ t, exec f.2.1 s = .next t ∧ s.AccessFrame t ∧ t.gpr = s.gpr ∧ s.SameMemory t ∧ t.dcache = s.dcache ∧
        s.MemoryAfter t (f.2.2.1 &&& 0x1FFFFFFF) f.2.2.2 := by
  subst hp
  intro f hf ha
  obtain ⟨start, bs, hbytes, hexec⟩ := State.stores_cached hva hc f hf ha
  have hway : s.dcache.hitWay s.dOn0 s.dOn1 s.dsize start (start &&& 0x1FFFFFFF) = none := by
    rw [Cache.hitWay_congr _ hbytes.startWord (wordBase_mask hbytes.startWord _), hn]
  exact ⟨_, hexec _ _ (State.cachedStore_miss hway hbuf (hbytes.noPort hport)), ⟨⟨rfl, rfl, rfl, rfl⟩, rfl⟩, rfl,
    fun _ => rfl, rfl, hbytes.memoryAfter hi.memory he hport rfl rfl rfl rfl⟩

/-! ### A store that hits and the load behind it (20 R172, R173) -/

/-- A set that still hits leaves the answer of the lookup as it was. -/
theorem Cache.hitWay_setWay {c : Cache} {on0 on1 : Bool} {size : Nat} {pa : Word} {w : Bool} {x : CacheSet}
    (h : x.hits size va pa = (c.way w).hits size va pa) :
    (c.setWay w x).hitWay on0 on1 size va pa = c.hitWay on0 on1 size va pa := by
  cases w
  · have h0 : x.hits size va pa = c.set0.hits size va pa := h
    simp [Cache.hitWay, Cache.setWay, h0]
  · have h1 : x.hits size va pa = c.set1.hits size va pa := h
    simp [Cache.hitWay, Cache.setWay, h1]

/-- A set after a store that hits it in write-back mode. -/
def CacheSet.storeBack (c : CacheSet) (size : Nat) (va : Word) (bs : List Byte) : CacheSet :=
  (c.writeData (offsetOf size va) bs).setTag (lineOf size va) { c.tagAt (lineOf size va) with dirty := true }

theorem CacheSet.Inv.tagAt_storeBack {c : CacheSet} (h : c.Inv) (size : Nat) (va : Word) (bs : List Byte) :
    (c.storeBack size va bs).tagAt (lineOf size va) = { c.tagAt (lineOf size va) with dirty := true } :=
  ((h.writeData _ bs).tagAfter (lineOf size va) _ _).trans (if_pos rfl)

/-- The line is found as before. -/
theorem CacheSet.Inv.hits_storeBack {c : CacheSet} (h : c.Inv) (size : Nat) (va pa : Word) (bs : List Byte) :
    (c.storeBack size va bs).hits size va pa = c.hits size va pa := by
  unfold CacheSet.hits
  rw [h.tagAt_storeBack]

/-- The bytes stored are read back. -/
theorem CacheSet.Inv.readData_storeBack {c : CacheSet} (h : c.Inv) (size : Nat) (va : Word) (bs : List Byte) :
    (c.storeBack size va bs).readData (offsetOf size va) bs.length = bs := by
  refine Eq.trans ?_ (h.readData_writeData (offsetOf size va) bs)
  apply List.ext_getElem?
  intro j
  rw [CacheSet.readData_getElem?, CacheSet.readData_getElem?, CacheSet.storeBack, CacheSet.setTag_data]

/-- A word store that hits in write-back mode. -/
theorem State.store_back {w : Bool} (v : Word) (ha : va.toNat % 4 = 0) (hc : s.CachedAccess va)
    (hwb : s.cp0.ccc.getLsbD 5 = true)
    (hw : s.dcache.hitWay s.dOn0 s.dOn1 s.dsize va (va &&& 0x1FFFFFFF) = some w) :
    s.store va va 4 4 v =
      .ok () (s.setDWay w ((s.dcache.way w).storeBack s.dsize va (toBytes s.cfg.bigEndian 4 v))) := by
  unfold State.store
  rw [State.dataAddress_cached hc ha, Res.ok_andThen]
  dsimp only
  rw [State.write_cached hc rfl, show Ccc.wb s.cp0.ccc = true from hwb]
  exact State.cachedStore_back hw

/-- The line takes the word and is dirty, and the load reads it there. -/
theorem State.storeThenLoad_back {w : Bool} (rt' : BitVec 5) (hva : va = s.ea base off) (ha : va.toNat % 4 = 0)
    (hi : s.Inv) (hc : s.CachedAccess va) (hwb : s.cp0.ccc.getLsbD 5 = true)
    (hw : s.dcache.hitWay s.dOn0 s.dOn1 s.dsize va (va &&& 0x1FFFFFFF) = some w) :
    ∃ t u, exec (.sw base rt off) s = .next t ∧ t.mem = s.mem ∧ t.wbuf = s.wbuf ∧ t.gpr = s.gpr ∧
      ((t.dcache.way w).tagAt (lineOf s.dsize va)).dirty = true ∧ (t.dcache.way !w) = s.dcache.way !w ∧
      exec (.lw base rt' off) t = .next u ∧ u.mem = s.mem ∧
      ∀ k, u.reg k = if k = rt' ∧ rt' ≠ 0 then s.reg rt else s.reg k := by
  subst hva
  have hset := Kept.dcacheInv hi w
  have hstore := State.store_back (s.reg rt) ha hc hwb hw
  have hhits := hset.hits_storeBack s.dsize (s.ea base off) (s.ea base off &&& 0x1FFFFFFF)
    (toBytes s.cfg.bigEndian 4 (s.reg rt))
  have htag := hset.tagAt_storeBack s.dsize (s.ea base off) (toBytes s.cfg.bigEndian 4 (s.reg rt))
  have hback := hset.readData_storeBack s.dsize (s.ea base off) (toBytes s.cfg.bigEndian 4 (s.reg rt))
  rw [length_toBytes] at hback
  generalize (s.dcache.way w).storeBack s.dsize (s.ea base off) (toBytes s.cfg.bigEndian 4 (s.reg rt)) = x at *
  have hc1 : (s.setDWay w x).advance.CachedAccess (s.ea base off) :=
    ⟨hc.kernel, hc.segment, hc.serves, hc.noDebug, hc.noOca, hc.notIsolated, hc.noScratch, hc.built⟩
  have hload := State.load_hit (s := (s.setDWay w x).advance) (n := 4) hc1 ((Cache.hitWay_setWay hhits).trans hw) rfl ha rfl
  have hval : ofBytes s.cfg.bigEndian (x.readData (offsetOf s.dsize (s.ea base off)) 4) = s.reg rt := by
    rw [hback, ofBytes_toBytes]
  rw [← State.readWay_eq rfl rfl, State.advance_dcache, State.dcache_setDWay, Cache.way_setWay] at hload
  refine ⟨_, _, exec_sw_of hstore, rfl, rfl, rfl, ?_, ?_, exec_lw_of hload, ?_, fun k => ?_⟩
  · rw [State.advance_dcache, State.dcache_setDWay, Cache.way_setWay, htag]
  · exact Cache.way_setWay_other _ _ _
  · simp only [State.advance_mem, State.setReg_mem]
    rfl
  · rw [State.reg_advance, State.reg_setReg]
    exact if_congr Iff.rfl hval rfl

/-! ### Stops (20 R157, 10 R63) -/

/-- The physical address of the access's lowest byte differs from the translated one in bits 1 and 0 at most. -/
theorem getLsbD_physOfStart (pa start : Word) {i : Nat} (hi : 2 ≤ i) (h : i < 32) :
    (physOfStart pa start).getLsbD i = pa.getLsbD i := by
  have h3 : ∀ i, i < 32 → (3 : Word).getLsbD i = decide (i < 2) := by decide
  unfold physOfStart
  rw [BitVec.getLsbD_or, BitVec.getLsbD_and, h3 i h, getLsbD_of_wordBase (wordBase_wordBase pa) hi]
  simp [show ¬i < 2 by omega]

theorem aliased_physOfStart (size : Nat) (va pa start : Word) :
    aliased size va (physOfStart pa start) = aliased size va pa := by
  rw [aliased, getLsbD_physOfStart pa start (by omega) (by omega)]
  rfl

/-- Why the D-cache cannot serve an access at `va` (10 R63, 20 R157). -/
def State.dStop (s : State) (va pa : Word) : Option Refusal :=
  if !s.dSizeBuilt then some .cacheSizeMismatch else if aliased s.dsize va pa then some .cacheAlias else none

/-- The two checks before the D-cache are `dStop`. -/
theorem State.dStop_elim {α : Type} (s : State) (va pa : Word) (x : Res α) :
    (if !s.dSizeBuilt then .refuse .cacheSizeMismatch else if aliased s.dsize va pa then .refuse .cacheAlias else x) =
      (s.dStop va pa).elim x .refuse := by
  unfold State.dStop
  split
  · rfl
  · split <;> rfl

/-- A word access that the D-cache should serve and cannot stops. -/
theorem State.word_stops {pa : Word} {attr : Attr} {r : Refusal} (hva : va = s.ea base off)
    (hd : ∀ store, s.dataAddress va 4 store = .ok (pa, attr) s) (hattr : attr ≠ .uncached) (hserves : s.dCaching = true)
    (hoca : s.env.pins.oca = none) (hiso : Ccc.isc s.testMode = false) (hsp : s.dScratch va (physOfStart pa va) = none)
    (hr : s.dStop va pa = some r) :
    ∀ i ∈ [Instr.lw base rt off, .sw base rt off], exec i s = .refused r := by
  subst hva
  have hcached : (decide (attr = .uncached) || !s.dCaching) = false := by simp [hattr, hserves]
  have hread : s.readData (s.ea base off) (s.ea base off) 4 (physOfStart pa (s.ea base off)) attr = .refuse r := by
    unfold State.readData
    rw [hoca, hiso, hsp]
    simp only [hcached, aliased_physOfStart, Bool.false_eq_true, if_false]
    rw [State.dStop_elim, hr, Option.elim_some]
  have hwrite : ∀ bs, s.writeData (s.ea base off) (s.ea base off) bs (physOfStart pa (s.ea base off)) attr = .refuse r := by
    intro bs
    unfold State.writeData
    rw [hoca, hiso, hsp]
    simp only [hcached, aliased_physOfStart, Bool.false_eq_true, if_false]
    rw [State.dStop_elim, hr, Option.elim_some]
  intro i hmem
  simp only [List.mem_cons, List.not_mem_nil, or_false] at hmem
  rcases hmem with rfl | rfl
  · change State.loadInto s base rt off 4 id = _
    simp only [State.loadInto, State.load, hd false, Res.ok_andThen, hread]
    rfl
  · change State.storeFrom s _ _ 4 4 _ = _
    simp only [State.storeFrom, State.store, hd true, Res.ok_andThen, hwrite]
    rfl

/-! ### Fetches (20 R162, R171, R205) -/

/-- The word of four bytes of a set. -/
theorem ofBytes_readData (be : Bool) (c : CacheSet) (o : Nat) {b : Nat → Byte}
    (hb : ∀ j < 4, Sparse.get 0 c.data (o + j) = b j) :
    ofBytes be (c.readData o 4) = if be then b 0 ++ b 1 ++ b 2 ++ b 3 else b 3 ++ b 2 ++ b 1 ++ b 0 := by
  rw [← ofBytes_word, eq_bytesFrom (b := b) (k := 0) (CacheSet.length_readData _ _ _) fun j hj => ?_]
  rw [CacheSet.readData_getElem?, if_pos hj, hb j hj, Nat.zero_add]

/-- The use bits after one is recorded (10 R85). -/
theorem State.Inv.get_touchI (hi : s.Inv) (line : Nat) (w : Bool) (l : Nat) :
    Sparse.get false (s.touchI line w).imru l = if l = line then w else Sparse.get false s.imru l := by
  by_cases h : l = line
  · subst h
    rw [if_pos rfl]
    exact Sparse.get_set_same _ _ _ _ hi.uses
  · rw [if_neg h]
    exact Sparse.get_set_other _ _ _ h

theorem State.fetchWord_hit {w : Bool} (hc : s.CachedFetch va)
    (hw : s.icache.hitWay s.iOn0 s.iOn1 s.isize va (va &&& 0x1FFFFFFF) = some w) :
    s.fetchWord va = .ok (ofBytes s.cfg.bigEndian ((s.icache.way w).readData (offsetOf s.isize va) 4))
      (s.touchI (lineOf s.isize va) w) := by
  rw [State.fetchWord_cached hc]
  simp only [State.cachedFetch, hw, Res.ok_andThen]
  rfl

theorem State.fetchWord_scratch (hu : s.userMode = false) (hv : va.extractLsb' 30 2 = 0b10#2) (ha : va.toNat % 4 = 0)
    (hsp : s.iScratch va (va &&& 0x1FFFFFFF) = true) (hbuilt : s.iSizeBuilt = true) :
    s.fetchWord va = .ok (ofBytes s.cfg.bigEndian (s.icache.set1.readData (offsetOf s.isize va) 4)) s := by
  unfold State.fetchWord
  rw [State.translate_fetch hu hv (by simp [aligned, ha]), Res.ok_andThen]
  dsimp only
  rw [if_pos hsp, if_pos hbuilt, Res.ok_andThen]

theorem State.fetchWord_miss {w : Bool} {x : CacheSet} (hc : s.CachedFetch va)
    (hn : s.icache.hitWay s.iOn0 s.iOn1 s.isize va (va &&& 0x1FFFFFFF) = none) (hw : w = s.iVictim (lineOf s.isize va))
    (hf : s.iFill va (va &&& 0x1FFFFFFF) = .ok false ((s.setIWay w x).touchI (lineOf s.isize va) w)) :
    s.fetchWord va = .ok (ofBytes s.cfg.bigEndian (x.readData (offsetOf s.isize va) 4))
      ((s.setIWay w x).touchI (lineOf s.isize va) w) := by
  rw [State.fetchWord_cached hc]
  simp only [State.cachedFetch, hn, hf, Res.ok_andThen, ← hw, Bool.false_eq_true, if_false]
  rw [show ((s.setIWay w x).touchI (lineOf s.isize va) w).icache.way w = x from Cache.way_setWay _ _ _]
  rfl

/-- The victim is a set that takes part. -/
theorem State.iVictim_on (h : s.iCaching = true) (line : Nat) :
    (if s.iVictim line then s.iOn1 else s.iOn0) = true := by
  unfold State.iCaching at h
  unfold State.iVictim
  cases h0 : s.iOn0 <;> cases h1 : s.iOn1 <;> simp_all

/-- A valid line is the victim only where both are valid, and then the least recently used one is (20 R171). -/
theorem State.iVictim_valid {line : Nat} {w : Bool} (hw : w = s.iVictim line) (h0 : s.iOn0 = true) (h1 : s.iOn1 = true)
    (hv : ((s.icache.way w).tagAt line).valid = true) :
    ((s.icache.way !w).tagAt line).valid = true ∧ Sparse.get false s.imru line = !w := by
  unfold State.iVictim at hw
  rw [h0, h1, Bool.and_self, if_pos rfl] at hw
  cases w
  · have hv0 : (s.icache.set0.tagAt line).valid = true := hv
    cases hv1 : (s.icache.set1.tagAt line).valid <;> rw [hv0, hv1] at hw
    · cases hw
    · exact ⟨hv1, by simpa using hw.symm⟩
  · have hv1 : (s.icache.set1.tagAt line).valid = true := hv
    cases hv0 : (s.icache.set0.tagAt line).valid <;> rw [hv0, hv1] at hw
    · cases hw
    · exact ⟨hv0, by simpa using hw.symm⟩

/-- A fetch that misses: the victim's line is filled, read, and noted as the last one used. -/
theorem State.fetchWord_fills {p : Word} {line : Nat} {b : Nat → Byte} (hi : s.Inv) (hp : p = va &&& 0x1FFFFFFF)
    (hl : line = lineOf s.isize va) (hb : b = fun k => Memory.read s.mem (p.toNat + k)) (hc : s.CachedFetch va)
    (hn : s.icache.hitWay s.iOn0 s.iOn1 s.isize va p = none) (hh : s.env.pins.hang = false)
    (he : s.env.pins.errFetch = false) (hk : s.touchesIceport (blockBase p) 32 = false) :
    ∃ (w : Bool) (t : State), s.fetchWord va =
        .ok (if s.cfg.bigEndian then b 0 ++ b 1 ++ b 2 ++ b 3 else b 3 ++ b 2 ++ b 1 ++ b 0) t ∧
      t = { s with icache := t.icache, imru := t.imru } ∧
      (if w then s.iOn1 else s.iOn0) = true ∧
      (s.iOn0 = true → s.iOn1 = true →
        ((s.icache.way w).tagAt line).valid = true → ((s.icache.way !w).tagAt line).valid = true ∧
          Sparse.get false s.imru line = !w) ∧
      t.icache.way (!w) = s.icache.way (!w) ∧ FilledFrom (s.icache.way w) (t.icache.way w) line p s.mem ∧
      ∀ l, Sparse.get false t.imru l = if l = line then w else Sparse.get false s.imru l := by
  subst hp hl hb
  obtain ⟨x, hfilled, hfill⟩ := State.iFill_of hi rfl rfl hh he hk
  have ha : va.toNat % 4 = 0 := by simpa [aligned] using hc.aligned
  have hmask := mask_toNat va
  have hword : ∀ j < 4, Sparse.get 0 x.data (offsetOf s.isize va + j) =
      Memory.read s.mem ((va &&& 0x1FFFFFFF).toNat + j) := by
    intro j hj
    have hw := hfilled.word rfl (by omega) hj (va := va) (size := s.isize)
    rwa [wordBase_of_aligned ha, wordBase_of_aligned (va := va &&& 0x1FFFFFFF) (by omega)] at hw
  generalize hw : s.iVictim (lineOf s.isize va) = w at hfilled hfill
  have hway : ((s.setIWay w x).touchI (lineOf s.isize va) w).icache.way w = x := Cache.way_setWay _ _ _
  refine ⟨w, (s.setIWay w x).touchI (lineOf s.isize va) w, ?_, rfl, hw ▸ State.iVictim_on hc.serves _,
    fun h0 h1 hv => State.iVictim_valid hw.symm h0 h1 hv, Cache.way_setWay_other _ _ _, ?_, hi.get_touchI _ _⟩
  · rw [State.fetchWord_miss hc hn hw.symm hfill, ofBytes_readData _ _ _ hword]
  · rw [hway]
    exact hfilled

/-! ### The clauses together -/

/-- Loads that miss: the victim goes back if it is dirty, the line is filled, and every width reads it. -/
theorem State.loads_fill {p : Word} {line : Nat} (hva : va = s.ea base off) (hp : p = va &&& 0x1FFFFFFF)
    (hl : line = lineOf s.dsize va) (hi : s.Inv) (hc : s.CachedAccess va)
    (hn : s.dcache.hitWay s.dOn0 s.dOn1 s.dsize va p = none) (hbuf : s.wbuf = []) (he : s.env.pins.errWrite = false)
    (hr : s.BusReads) (hk : s.touchesIceport (blockBase p) 32 = false) {w : Bool} {g : Tag} {q : Word}
    (hw : w = s.dVictim) (hg : g = (s.dcache.way w).tagAt line) (hq : q = (s.dcache.way w).lineAddress s.dsize line)
    (hport : g.valid = true → g.dirty = true → s.touchesIceport q 32 = false) :
    ∃ m, (∀ a < 2 ^ 32, Memory.read m a =
        if (g.valid && g.dirty) = true ∧ q.toNat ≤ a ∧ a < q.toNat + 32
        then Sparse.get 0 (s.dcache.way w).data (32 * line + (a - q.toNat)) else Memory.read s.mem a) ∧
      ∀ b : Nat → Byte, (b = fun k => Memory.read m ((wordBase p).toNat + k)) →
        ∀ f ∈ loadForms s.cfg.bigEndian b (s.reg rt) va base rt off, va.toNat % f.1 = 0 →
          ∃ t, exec f.2.1 s = .next t ∧ s.AccessFrame t ∧ s.GprsAfter t rt f.2.2 ∧ t.mem = m ∧ t.wbuf = [] ∧
            t.dcache.way (!w) = s.dcache.way (!w) ∧ FilledFrom (s.dcache.way w) (t.dcache.way w) line p m := by
  obtain ⟨m, x, hm, hfilled, hfill⟩ := State.dFill_of (pa := p) hi hw hl rfl hg hq hbuf he hr hport hk
  refine ⟨m, fun a _ => ?_, fun b hb f hf ha =>
    ⟨_, State.loads_miss hva hp hl hc hn hw hfill hfilled hb f hf ha, ⟨?_, ?_⟩, fun k => ?_, ?_, ?_, ?_, ?_⟩⟩
  · rw [hm, hq]
    split
    · rename_i hd
      rw [Memory.read_writeLine hi.memory]
      simp only [hd, true_and]
    · rename_i hd
      rw [if_neg fun h => hd h.1]
  · simp [State.Sequential]
  · unfold State.setReg
    split <;> rfl
  · rw [State.reg_advance, State.reg_setReg]
    rfl
  · simp
  · simpa using hbuf
  · simp
  · simpa using hfilled

/-- Settles O59: clause by clause from the lemmas about hits, misses, stops and fetches. -/
theorem cachedStoreThenLoad : Obligations.CachedStoreThenLoad := by
  refine ⟨fun s base rt rt' off va w hva ha hi hc hwb hw => State.storeThenLoad_back rt' hva ha hi hc hwb hw, ?_, ?_, ?_⟩
  · intro s base rt off va p line hva hp hl hi hc
    refine ⟨fun w hw => ⟨fun b hb => State.loads_hit hva hc (hp ▸ hw) hb, fun f hf ha => ⟨fun hwb => ?_, ?_⟩⟩,
      fun hn hbuf he => ⟨fun f hf ha hport => ?_, ?_⟩⟩
    · exact State.stores_back hva hp hl hi hc hw hwb f hf ha
    · exact fun hwb hbuf hport he => State.stores_through hva hp hi hc hw hwb hbuf hport he f hf ha
    · exact State.stores_miss hva hp hi hc hn hbuf hport he f hf ha
    · exact fun hr hk w g q hw hg hq hport => State.loads_fill hva hp hl hi hc hn hbuf he hr hk hw hg hq hport
  · intro s base rt off va pa attr hva hd hattr hserves hoca hiso hsp
    refine ⟨fun hsize => ?_, fun hsize halias => ?_⟩
    · exact State.word_stops hva hd hattr hserves hoca hiso hsp (by simp [State.dStop, hsize])
    · exact State.word_stops hva hd hattr hserves hoca hiso hsp (by simp [State.dStop, hsize, halias])
  · intro s va p line c b v hi hp hl hv
    subst hp hl hv
    refine ⟨fun hb => ⟨fun w hc hw hset => ⟨s.touchI (lineOf s.isize va) w, ?_, rfl, hi.get_touchI _ _⟩,
      fun hu hseg ha hsp hbuilt hset => ?_⟩,
      fun hb hc hn hh he hk => State.fetchWord_fills hi rfl rfl hb hc hn hh he hk⟩
    · subst hb hset
      rw [State.fetchWord_hit hc hw, ofBytes_readData _ _ _ fun j _ => rfl]
    · subst hb hset
      rw [State.fetchWord_scratch hu hseg ha hsp hbuilt, ofBytes_readData _ _ _ fun j _ => rfl]

end Sys2Proof.Machine
end

section
/-! The decoder, the encoder and the opcode table agree (30 R220 to R253). Each major opcode hands its words to one
decoder; the fields an instruction's row fixes are those its decoder looks at, and the encoder writes them. -/

namespace Sys2Proof

open InstrField

variable {w : Word}

/-! ### The decoder of each major opcode (30 R230) -/

theorem decode_special (h : op w = 0x00) : decode w = decodeSpecial w := by simp [decode, h]

theorem decode_regimm (h : op w = 0x01) : decode w = decodeRegimm w := by simp [decode, h]

theorem decode_cop0 (h : op w = 0x10) :
    decode w = if isCofun w then decodeCp0Function w else decodeCop0Sub w := by simp [decode, h]

theorem decode_cop1 (h : op w = 0x11) :
    decode w = if isCofun w then .instr (.cop1 (cofun w)) else decodeCop1Sub w := by simp [decode, h]

theorem decode_cop2 (h : op w = 0x12) :
    decode w = if isCofun w then .instr (.cop2 (cofun w)) else decodeCop2Sub w := by simp [decode, h]

theorem decode_cop3 (h : op w = 0x13) :
    decode w = if isCofun w then .instr (.cop3 (cofun w)) else decodeCop3Sub w := by simp [decode, h]

theorem decode_cache (h : op w = 0x2F) : decode w = decodeCache w := by simp [decode, h]

/-! ### Encoded words (30 R221, R253) -/

/-- Decoding inverts encoding: one case per decoder, closed by the fields of the encoder's words. -/
theorem decode_encode (i : Instr) : decode (encode i) = .instr i := by
  cases i with
  | lb | lh | lwl | lw | lbu | lhu | lwr | sb | sh | swl | sw | swr | ll | sc | addi | addiu | slti | sltiu
    | andi | ori | xori | lui | addciu | j | jal | beq | bne | beql | bnel | blez | bgtz | blezl | bgtzl
    | lwc1 | swc1 | lwc2 | swc2 | lwc3 | swc3 =>
    simp [encode, decode]
  | sync | add | addu | sub | subu | slt | sltu | and | or | xor | nor | sll | srl | sra | sllv | srlv | srav
    | mult | multu | div | divu | mfhi | mflo | mthi | mtlo | ffs | ffc | min | max | selsr | selsl | madd
    | maddu | msub | msubu | jr | jalr | tge | tgeu | tlt | tltu | teq | tne | syscall | brk =>
    simp [encode, decode_special, decodeSpecial]
  | bltz | bgez | bltzl | bgezl | bltzal | bgezal | bltzall | bgezall | tgei | tgeiu | tlti | tltiu | teqi
    | tnei =>
    simp [encode, decode_regimm, decodeRegimm]
  | mtc0 | mfc0 | bc0f | bc0t | bc0fl | bc0tl | tlbr | tlbwi | tlbwr | tlbp | rfe | eret | waiti =>
    simp [encode, decode_cop0, decodeCop0Sub, decodeBc0, decodeCp0Function]
  | mtc1 | mfc1 | ctc1 | cfc1 | cop1 | bc1f | bc1t | bc1fl | bc1tl =>
    simp [encode, decode_cop1, decodeCop1Sub, decodeBc1]
  | mtc2 | mfc2 | ctc2 | cfc2 | cop2 | bc2f | bc2t | bc2fl | bc2tl =>
    simp [encode, decode_cop2, decodeCop2Sub, decodeBc2]
  | mtc3 | mfc3 | ctc3 | cfc3 | cop3 | bc3f | bc3t | bc3fl | bc3tl =>
    simp [encode, decode_cop3, decodeCop3Sub, decodeBc3]
  | flushi | flushd | flushid | wb =>
    simp [encode, decode_cache, decodeCache]

theorem append_bytes (w : Word) :
    w.extractLsb' 24 8 ++ w.extractLsb' 16 8 ++ w.extractLsb' 8 8 ++ w.extractLsb' 0 8 = w := by
  ext i hi
  simp only [BitVec.getElem_append, BitVec.getElem_extractLsb']
  grind

/-- The bytes of a word in address order make the word again (20 R131), so they decode as the word does. -/
theorem decodeBytes_bytesOfWord {i : Instr} (bigEndian : Bool) (rest : List Byte) (h : decode w = .instr i) :
    decodeBytes bigEndian (bytesOfWord bigEndian w ++ rest) = .ok (i, rest) := by
  cases bigEndian <;> simp [bytesOfWord, decodeBytes, wordOfBytes, append_bytes, h]

/-- Settles O1: the bytes make the word of the instruction, which decodes to it. -/
theorem bytesDecodeToTheirInstruction : Obligations.BytesDecodeToTheirInstruction := by
  intro bigEndian i rest
  refine ⟨decodeBytes_bytesOfWord bigEndian rest (decode_encode i), ?_⟩
  have hbytes : decodeBytes false (bytesOfWord false (encode i)) = .ok (i, []) := by
    simpa using decodeBytes_bytesOfWord false [] (decode_encode i)
  have hword : BitVec.ofNat 32 ((encode i).toNat % 2 ^ 32) = encode i := by
    rw [Nat.mod_eq_of_lt (encode i).isLt, BitVec.ofNat_toNat, BitVec.setWidth_eq]
  rw [decodeTableWord, hword, hbytes]

/-! ### What a decoded word has in the bits of its row (30 R253) -/

/-- `d` is no instruction, or one whose row has the fixed bits of `w`. -/
def Decoded.FitsRow (w : Word) : Decoded → Prop
  | .instr i => w &&& i.rowMask = i.rowMatch
  | _ => True

theorem decodeSpecial_fitsRow (hop : op w = 0x00) : (decodeSpecial w).FitsRow w := by
  unfold decodeSpecial
  split <;> simp only [Decoded.FitsRow, Instr.rowMask, Instr.rowMatch, mask_op_funct, *] <;> rfl

theorem decodeRegimm_fitsRow (hop : op w = 0x01) : (decodeRegimm w).FitsRow w := by
  unfold decodeRegimm
  split <;> simp only [Decoded.FitsRow, Instr.rowMask, Instr.rowMatch, mask_op_rt, *] <;> rfl

theorem decodeCop0_fitsRow (hop : op w = 0x10) :
    (if isCofun w then decodeCp0Function w else decodeCop0Sub w).FitsRow w := by
  unfold decodeCp0Function decodeCop0Sub decodeBc0
  repeat' split
  all_goals
    simp only [Decoded.FitsRow, Instr.rowMask, Instr.rowMatch, mask_op_cofun_funct, mask_op_rs, mask_op_rs_rt, *] <;>
      rfl

theorem decodeCop1_fitsRow (hop : op w = 0x11) :
    (if isCofun w then .instr (.cop1 (cofun w)) else decodeCop1Sub w).FitsRow w := by
  unfold decodeCop1Sub decodeBc1
  repeat' split
  all_goals
    simp only [Decoded.FitsRow, Instr.rowMask, Instr.rowMatch, mask_op_cofun, mask_op_rs, mask_op_rs_rt, *] <;> rfl

theorem decodeCop2_fitsRow (hop : op w = 0x12) :
    (if isCofun w then .instr (.cop2 (cofun w)) else decodeCop2Sub w).FitsRow w := by
  unfold decodeCop2Sub decodeBc2
  repeat' split
  all_goals
    simp only [Decoded.FitsRow, Instr.rowMask, Instr.rowMatch, mask_op_cofun, mask_op_rs, mask_op_rs_rt, *] <;> rfl

theorem decodeCop3_fitsRow (hop : op w = 0x13) :
    (if isCofun w then .instr (.cop3 (cofun w)) else decodeCop3Sub w).FitsRow w := by
  unfold decodeCop3Sub decodeBc3
  repeat' split
  all_goals
    simp only [Decoded.FitsRow, Instr.rowMask, Instr.rowMatch, mask_op_cofun, mask_op_rs, mask_op_rs_rt, *] <;> rfl

theorem decodeCache_fitsRow (hop : op w = 0x2F) : (decodeCache w).FitsRow w := by
  unfold decodeCache
  split <;> simp only [Decoded.FitsRow, Instr.rowMask, Instr.rowMatch, mask_op_rt, *] <;> rfl

theorem decode_fitsRow (w : Word) : (decode w).FitsRow w := by
  unfold decode
  split
  case h_1 hop => exact decodeSpecial_fitsRow hop
  case h_2 hop => exact decodeRegimm_fitsRow hop
  case h_17 hop => exact decodeCop0_fitsRow hop
  case h_18 hop => exact decodeCop1_fitsRow hop
  case h_19 hop => exact decodeCop2_fitsRow hop
  case h_20 hop => exact decodeCop3_fitsRow hop
  case h_38 hop => exact decodeCache_fitsRow hop
  all_goals simp only [Decoded.FitsRow, Instr.rowMask, Instr.rowMatch, mask_op, *] <;> rfl

/-! ### What a word with the fixed bits of a row decodes to (30 R249, R253) -/

section
variable {m v : Word}

/-- A field all of whose bits `m` selects is the field of `v`. -/
theorem extract_of_masked {k n : Nat} (h : w &&& m = v) (hm : m.extractLsb' k n = BitVec.allOnes n) :
    w.extractLsb' k n = v.extractLsb' k n := by
  rw [← h, BitVec.extractLsb'_and, hm, BitVec.and_allOnes]

theorem op_of_masked (h : w &&& m = v) (hm : op m = 0x3F) : op w = op v := extract_of_masked h hm

theorem rs_of_masked (h : w &&& m = v) (hm : rs m = 0x1F) : rs w = rs v := extract_of_masked h hm

theorem rt_of_masked (h : w &&& m = v) (hm : rt m = 0x1F) : rt w = rt v := extract_of_masked h hm

theorem funct_of_masked (h : w &&& m = v) (hm : funct m = 0x3F) : funct w = funct v := extract_of_masked h hm

theorem isCofun_of_masked (h : w &&& m = v) (hm : isCofun m = true) : isCofun w = isCofun v := by
  rw [← h, isCofun, isCofun, BitVec.getLsbD_and, show m.getLsbD 25 = true from hm, Bool.and_true]

end

/-- `w` decodes to an instruction of the row of `i`. -/
def DecodesInRow (w : Word) (i : Instr) : Prop :=
  ∃ j, decode w = .instr j ∧ j.rowMask = i.rowMask ∧ j.rowMatch = i.rowMatch

/-- The row of `i` fixes every field on which the way to its decoder branches. -/
theorem decodesInRow_of_masked (i : Instr) (h : w &&& i.rowMask = i.rowMatch) : DecodesInRow w i := by
  cases i <;> simp only [Instr.rowMask, Instr.rowMatch] at h
  case lb | lh | lwl | lw | lbu | lhu | lwr | sb | sh | swl | sw | swr | ll | sc | addi | addiu | slti | sltiu
    | andi | ori | xori | lui | addciu | j | jal | beq | bne | beql | bnel | blez | bgtz | blezl | bgtzl
    | lwc1 | swc1 | lwc2 | swc2 | lwc3 | swc3 =>
    rw [DecodesInRow, decode, op_of_masked h rfl]
    exact ⟨_, rfl, rfl, rfl⟩
  case sync | add | addu | sub | subu | slt | sltu | and | or | xor | nor | sll | srl | sra | sllv | srlv | srav
    | mult | multu | div | divu | mfhi | mflo | mthi | mtlo | ffs | ffc | min | max | selsr | selsl | madd
    | maddu | msub | msubu | jr | jalr | tge | tgeu | tlt | tltu | teq | tne | syscall | brk =>
    rw [DecodesInRow, decode_special (op_of_masked h rfl), decodeSpecial, funct_of_masked h rfl]
    exact ⟨_, rfl, rfl, rfl⟩
  case bltz | bgez | bltzl | bgezl | bltzal | bgezal | bltzall | bgezall | tgei | tgeiu | tlti | tltiu | teqi
    | tnei =>
    rw [DecodesInRow, decode_regimm (op_of_masked h rfl), decodeRegimm, rt_of_masked h rfl]
    exact ⟨_, rfl, rfl, rfl⟩
  case tlbr | tlbwi | tlbwr | tlbp | rfe | eret | waiti =>
    rw [DecodesInRow, decode_cop0 (op_of_masked h rfl), isCofun_of_masked h rfl, decodeCp0Function,
      funct_of_masked h rfl]
    exact ⟨_, rfl, rfl, rfl⟩
  case mtc0 | mfc0 =>
    rw [DecodesInRow, decode_cop0 (op_of_masked h rfl), isCofun_of_masked h rfl, decodeCop0Sub, rs_of_masked h rfl]
    exact ⟨_, rfl, rfl, rfl⟩
  case bc0f | bc0t | bc0fl | bc0tl =>
    rw [DecodesInRow, decode_cop0 (op_of_masked h rfl), isCofun_of_masked h rfl, decodeCop0Sub, rs_of_masked h rfl,
      decodeBc0, rt_of_masked h rfl]
    exact ⟨_, rfl, rfl, rfl⟩
  case mtc1 | mfc1 | ctc1 | cfc1 =>
    rw [DecodesInRow, decode_cop1 (op_of_masked h rfl), isCofun_of_masked h rfl, decodeCop1Sub, rs_of_masked h rfl]
    exact ⟨_, rfl, rfl, rfl⟩
  case bc1f | bc1t | bc1fl | bc1tl =>
    rw [DecodesInRow, decode_cop1 (op_of_masked h rfl), isCofun_of_masked h rfl, decodeCop1Sub, rs_of_masked h rfl,
      decodeBc1, rt_of_masked h rfl]
    exact ⟨_, rfl, rfl, rfl⟩
  case cop1 =>
    rw [DecodesInRow, decode_cop1 (op_of_masked h rfl), isCofun_of_masked h rfl]
    exact ⟨_, rfl, rfl, rfl⟩
  case mtc2 | mfc2 | ctc2 | cfc2 =>
    rw [DecodesInRow, decode_cop2 (op_of_masked h rfl), isCofun_of_masked h rfl, decodeCop2Sub, rs_of_masked h rfl]
    exact ⟨_, rfl, rfl, rfl⟩
  case bc2f | bc2t | bc2fl | bc2tl =>
    rw [DecodesInRow, decode_cop2 (op_of_masked h rfl), isCofun_of_masked h rfl, decodeCop2Sub, rs_of_masked h rfl,
      decodeBc2, rt_of_masked h rfl]
    exact ⟨_, rfl, rfl, rfl⟩
  case cop2 =>
    rw [DecodesInRow, decode_cop2 (op_of_masked h rfl), isCofun_of_masked h rfl]
    exact ⟨_, rfl, rfl, rfl⟩
  case mtc3 | mfc3 | ctc3 | cfc3 =>
    rw [DecodesInRow, decode_cop3 (op_of_masked h rfl), isCofun_of_masked h rfl, decodeCop3Sub, rs_of_masked h rfl]
    exact ⟨_, rfl, rfl, rfl⟩
  case bc3f | bc3t | bc3fl | bc3tl =>
    rw [DecodesInRow, decode_cop3 (op_of_masked h rfl), isCofun_of_masked h rfl, decodeCop3Sub, rs_of_masked h rfl,
      decodeBc3, rt_of_masked h rfl]
    exact ⟨_, rfl, rfl, rfl⟩
  case cop3 =>
    rw [DecodesInRow, decode_cop3 (op_of_masked h rfl), isCofun_of_masked h rfl]
    exact ⟨_, rfl, rfl, rfl⟩
  case flushi | flushd | flushid | wb =>
    rw [DecodesInRow, decode_cache (op_of_masked h rfl), decodeCache, rt_of_masked h rfl]
    exact ⟨_, rfl, rfl, rfl⟩

/-- Settles O2: the decoders look at exactly the fields the rows fix. -/
theorem decodeAgreesWithTheTable : Obligations.DecodeAgreesWithTheTable := by
  refine ⟨fun w i hi => ?_, fun i w h => decodesInRow_of_masked i h⟩
  have hfits := decode_fitsRow w
  rwa [hi] at hfits

/-- Settles O3. -/
theorem sampleWordsDecode : Obligations.SampleWordsDecode := by
  unfold Obligations.SampleWordsDecode
  decide

end Sys2Proof
end

section
/-! What the words outside the opcode table do (30 R246, R248): after the usability check nothing but the pc, or one
register. -/

namespace Sys2Proof.Machine

variable {s : State} {w : Word} {d : Decoded}

theorem State.advance_onlyAdvances (s : State) : s.OnlyAdvances s.advance :=
  ⟨fun _ => rfl, rfl, rfl, ⟨rfl, rfl, rfl, rfl⟩, fun _ => rfl, rfl⟩

theorem State.setReg_advance_writesGpr (s : State) (r : BitVec 5) (v : Word) :
    s.WritesGpr (s.setReg r v).advance r v := by
  refine ⟨fun k => s.reg_setReg r k v, by simp, by simp, by simp [State.Sequential], fun a => by simp, ?_⟩
  unfold State.setReg
  split <;> rfl

/-- A word that is no instruction of the table goes to `execUnlisted`. -/
theorem execWord_unlisted (h : decode w = d) (hd : ∀ i, d ≠ .instr i) : execWord w s = execUnlisted d s := by
  unfold execWord
  split
  case h_1 i hi => exact absurd (h.symm.trans hi) (hd i)
  case h_2 => rw [h]

theorem State.withCp0_of_usable {x : Result} (h : s.copUsable 0 = true) : s.withCp0 x = x := if_pos h

theorem State.withCp0_of_unusable {x : Result} (h : ¬s.copUsable 0 = true) :
    s.withCp0 x = s.raised (.cpu 0) := if_neg h

theorem State.withCache_of_usable {x : Result} (h : s.copUsable 0 = true) : s.withCache x = x := if_pos h

theorem State.withCache_of_unusable {x : Result} (h : ¬s.copUsable 0 = true) :
    s.withCache x = s.raised .ri := if_neg h

/-- Settles O4: each kind of word by its clause of `execUnlisted`, with the unit usable or not. -/
theorem wordsOutsideTheTable : Obligations.WordsOutsideTheTable := by
  intro w s
  refine ⟨fun h => execWord_unlisted h nofun, fun z h => execWord_unlisted h nofun, fun h => ?_, fun rt h => ?_,
    fun h => ?_, fun base offset h => ?_⟩
  · have hx : execWord w s = s.withCp0 (.next s.advance) := by
      rcases h with h | h <;> exact execWord_unlisted h nofun
    rw [hx]
    split
    case isTrue hu => exact ⟨_, State.withCp0_of_usable hu, s.advance_onlyAdvances⟩
    case isFalse hu => exact State.withCp0_of_unusable hu
  · rw [execWord_unlisted h nofun]
    split
    case isTrue hu => exact ⟨_, _, State.withCp0_of_usable hu, s.setReg_advance_writesGpr rt _⟩
    case isFalse hu => exact State.withCp0_of_unusable hu
  · rw [execWord_unlisted h nofun]
    split
    case isTrue hu => exact ⟨_, State.withCache_of_usable hu, s.advance_onlyAdvances⟩
    case isFalse hu => exact State.withCache_of_unusable hu
  · rw [execWord_unlisted h nofun]
    split
    case isTrue hu =>
      rw [execUnlisted, State.withCache_of_usable hu]
      split
      · exact .inr rfl
      · exact .inl ⟨_, rfl, s.advance_onlyAdvances⟩
    case isFalse hu => exact State.withCache_of_unusable hu

end Sys2Proof.Machine
end

section
/-! Loads, stores and SYNC of uncached memory (40 R270 to R287, 20 R131, R160, R161, R180 to R182). An access that is plain
somewhere in an aligned word is plain in the whole of it, so each width is a case of `loadForms` or `storeForms`. -/

namespace Sys2Proof.Machine

variable {s : State} {va start : Word} {n : Nat} {base rt : BitVec 5} {off : BitVec 16}

/-! ### The word of a plain access (20 R131, R160, 60 R570) -/

theorem CacheSet.covers_congr (c : CacheSet) (wired : Option (BitVec 22)) {size : Nat} {a b p q : Word}
    (h : wordBase a = wordBase b) (hp : wordBase p = wordBase q) : c.covers wired size a p = c.covers wired size b q := by
  unfold CacheSet.covers tagBitsOf
  rw [lineOf_congr h, extract_congr hp (by omega)]

theorem State.dScratch_congr {a b p q : Word} (h : wordBase a = wordBase b) (hp : wordBase p = wordBase q) :
    s.dScratch a p = s.dScratch b q := by
  unfold State.dScratch
  rw [CacheSet.covers_congr _ _ h hp, CacheSet.covers_congr _ _ h hp]

/-- The ICEport's sixteen bytes are whole words: a word with one byte outside them lies outside them. -/
theorem State.touchesIceport_wordBase {pa : Word} (h : s.touchesIceport pa n = false) (hn : 0 < n) :
    s.touchesIceport (wordBase pa) 4 = false := by
  have hbase : (s.cfg.iceportBase ++ (0#4)).toNat % 16 = 0 := by
    rw [BitVec.toNat_append, show (0#4).toNat = 0 from rfl, Nat.or_zero, Nat.shiftLeft_eq]
    omega
  have hpa := wordBase_toNat pa
  unfold State.touchesIceport overlaps at h ⊢
  simp only [Bool.and_eq_false_iff, decide_eq_false_iff_not] at h ⊢
  rcases h with habsent | hapart
  · exact .inl habsent
  · right
    omega

theorem wordBase_and (a m : Word) : wordBase (a &&& m) = wordBase a &&& m := by
  unfold wordBase
  rw [BitVec.and_assoc, BitVec.and_assoc, BitVec.and_comm m]

/-- A plain access of any part of a word is one of the whole word. -/
theorem State.PlainAccess.word (hp : s.PlainAccess va start n) (hn : 0 < n) (hs : wordBase start = wordBase va) :
    s.PlainAccess va (wordBase va) 4 :=
  { hp with
    noScratch := by
      have hnone := hp.noScratch
      have hw : wordBase (wordBase va) = wordBase start := (wordBase_wordBase va).trans hs.symm
      rw [physOfStart_eq hs] at hnone
      rw [physOfStart_eq (wordBase_wordBase va), State.dScratch_congr hw (wordBase_mask hw _), hnone]
    noPort := by
      have hfree := hp.noPort
      rw [physOfStart_eq hs] at hfree
      rw [physOfStart_eq (wordBase_wordBase va), ← hs, ← wordBase_and]
      exact State.touchesIceport_wordBase hfree hn }

theorem State.PlainAccess.wordFree (hp : s.PlainAccess va (wordBase va) 4) :
    s.touchesIceport (wordBase (va &&& 0x1FFFFFFF)) 4 = false := by
  have hfree := hp.noPort
  rwa [physOfStart_eq (wordBase_wordBase va), ← wordBase_and] at hfree

/-- A plain access of a word is one of each of its parts. -/
theorem State.PlainAccess.part (hp : s.PlainAccess va (wordBase va) 4) (hs : wordBase start = wordBase va)
    (hn : start.toNat % 4 + n ≤ 4) : s.PlainAccess va start n :=
  { hp with
    noScratch := by
      have hnone := hp.noScratch
      have hw : wordBase start = wordBase (wordBase va) := hs.trans (wordBase_wordBase va).symm
      rw [physOfStart_eq (wordBase_wordBase va)] at hnone
      rw [physOfStart_eq hs, State.dScratch_congr hw (wordBase_mask hw _), hnone]
    noPort := by
      rw [physOfStart_eq hs]
      exact State.touchesIceport_word hp.wordFree hs hn }

/-! ### Where LWL, LWR, SWL and SWR access (40 R287) -/

theorem wordBase_leftStart (be : Bool) (va : Word) : wordBase (leftStart be va) = wordBase va := by
  cases be
  · exact wordBase_wordBase va
  · rfl

theorem wordBase_rightStart (be : Bool) (va : Word) : wordBase (rightStart be va) = wordBase va := by
  cases be
  · rfl
  · exact wordBase_wordBase va

theorem leftCount_pos (be : Bool) (va : Word) : 0 < leftCount be va := by
  unfold leftCount byteIndex
  split <;> omega

theorem rightCount_pos (be : Bool) (va : Word) : 0 < rightCount be va := by
  unfold rightCount byteIndex
  split <;> omega

/-! ### Loads (20 R160) -/

/-- Byte `k` of memory's aligned word that an unmapped address lies in. -/
def State.wordByte (s : State) (va : Word) (k : Nat) : Byte :=
  Memory.read s.mem ((wordBase (va &&& 0x1FFFFFFF)).toNat + k)

/-- The byte `j` behind the address itself. -/
theorem State.wordByte_add (s : State) (va : Word) (j : Nat) :
    s.wordByte va (va.toNat % 4 + j) = Memory.read s.mem ((va &&& 0x1FFFFFFF).toNat + j) := by
  have hword := wordBase_toNat (va &&& 0x1FFFFFFF)
  have hmask := mask_toNat va
  unfold State.wordByte
  congr 1
  omega

theorem State.wordByte_of_aligned (s : State) (ha : va.toNat % 4 = 0) :
    s.wordByte va = fun k => Memory.read s.mem ((va &&& 0x1FFFFFFF).toNat + k) := by
  funext j
  rw [← State.wordByte_add, ha, Nat.zero_add]

/-- A load in the word reads memory and changes nothing. -/
theorem State.load_word {align : Nat} (hp : s.PlainAccess va (wordBase va) 4) (hr : s.BusReads) (hb : s.wbuf = [])
    (hs : wordBase start = wordBase va) (hn : start.toNat % 4 + n ≤ 4) (ha : va.toNat % align = 0) :
    s.load va start align n = .ok (some (ofBytes s.cfg.bigEndian (bytesFrom (s.wordByte va) (start.toNat % 4) n)),
      (va &&& 0x1FFFFFFF, .uncached)) s := by
  have hpart : s.PlainAccess va start n := hp.part hs hn
  have hbytes : Memory.readBytes s.mem (start &&& 0x1FFFFFFF) n = bytesFrom (s.wordByte va) (start.toNat % 4) n := by
    have hmask := mask_toNat start
    refine eq_bytesFrom (Memory.length_readBytes _ _ _) fun j hj => ?_
    rw [Memory.readBytes_getElem? _ _ _ _ (by omega), if_pos hj, ← State.wordByte_add, State.wordByte,
      State.wordByte, wordBase_mask hs]
  have hfree := hpart.noPort
  rw [State.load_plain hpart ha]
  unfold State.uncachedLoad
  rw [State.orderRead_nil hb, Res.ok_andThen, State.busRead_of hr.answers hr.good hfree, Res.ok_andThen,
    physOfStart_eq hs, hbytes]
  rfl

/-- Loads of every width. -/
theorem State.loads_plain (hva : va = s.ea base off) (hp : s.PlainAccess va (wordBase va) 4) (hr : s.BusReads)
    (hb : s.wbuf = []) :
    ∀ f ∈ loadForms s.cfg.bigEndian (s.wordByte va) (s.reg rt) va base rt off, va.toNat % f.1 = 0 →
      s.Yields f.2.1 rt f.2.2 :=
  fun f hf ha => State.yields_of (loadForms_exec hva rfl
    (fun _ _ _ hstart hfits _ halign => State.load_word hp hr hb hstart hfits halign) f hf ha)

/-- Settles O39: each load by its form, with the bytes of its word counted from its address. -/
theorem uncachedLoads : Obligations.UncachedLoads := by
  intro s base rt off va p b hva hp hbytes hr hbuf
  have hbyte : ∀ j, s.wordByte va (va.toNat % 4 + j) = b j := by
    intro j
    rw [State.wordByte_add, hbytes, hp]
  have h0 : s.wordByte va (va.toNat % 4) = b 0 := hbyte 0
  have h1 : s.wordByte va (va.toNat % 4 + 1) = b 1 := hbyte 1
  have hloads := fun hplain => State.loads_plain (rt := rt) hva hplain hr hbuf
  simp only [loadForms, List.forall_mem_cons, h0, h1] at hloads
  refine ⟨fun hplain => ?_, fun hplain ha h hh => ?_, fun hplain ha => ?_⟩
  · obtain ⟨hlb, hlbu, -⟩ := hloads (hplain.word (by omega) rfl)
    exact ⟨hlb (Nat.mod_one _), hlbu (Nat.mod_one _)⟩
  · obtain ⟨-, -, hlh, hlhu, -⟩ := hloads (hplain.word (by omega) rfl)
    rw [hh]
    exact ⟨hlh ha, hlhu ha⟩
  · rw [s.wordByte_of_aligned ha, ← hp, ← hbytes] at hloads
    obtain ⟨-, -, -, -, hlw, -⟩ := hloads (hplain.word (by omega) rfl)
    exact hlw ha

/-- The address of the aligned word as the statements write it. -/
theorem wordBase_mask_eq (va : Word) : wordBase (va &&& 0x1FFFFFFF) = va &&& 0x1FFFFFFC := by
  unfold wordBase
  rw [BitVec.and_assoc]
  rfl

/-- Settles O40: both loads lie in the word of their address, and `loadForms` lists their tables. -/
theorem unalignedLoads : Obligations.UnalignedLoads := by
  intro s base rt off va b hva hbytes hr hbuf
  have hword : s.wordByte va = b := by
    funext j
    rw [State.wordByte, wordBase_mask_eq, hbytes]
  have hloads := fun hplain => State.loads_plain (rt := rt) hva hplain hr hbuf
  simp only [loadForms, List.forall_mem_cons, hword] at hloads
  refine ⟨fun hplain => ?_, fun hplain => ?_⟩
  · obtain ⟨-, -, -, -, -, hlwl, -⟩ := hloads (hplain.word (leftCount_pos _ _) (wordBase_leftStart _ _))
    exact hlwl (Nat.mod_one _)
  · obtain ⟨-, -, -, -, -, -, hlwr, -⟩ := hloads (hplain.word (rightCount_pos _ _) (wordBase_rightStart _ _))
    exact hlwr (Nat.mod_one _)

/-! ### Stores (20 R161, R180) -/

/-- A store of any width waits alone in the buffer. -/
theorem State.stores_plain (hva : va = s.ea base off) (hp : s.PlainAccess va (wordBase va) 4)
    (hm : Memory.wf s.mem = true) (hb : s.wbuf = []) (he : s.env.pins.errWrite = false) :
    ∀ f ∈ storeForms s.cfg.bigEndian (s.reg rt) va base rt off, va.toNat % f.1 = 0 →
      ∃ t, exec f.2.1 s = .next t ∧ s.StoreFrame t ∧ s.MemoryAfter t (f.2.2.1 &&& 0x1FFFFFFF) f.2.2.2 := by
  intro f hf ha
  obtain ⟨start, bs, hstart, hbase, hfits, hpos, hle, hbytes, hexec⟩ := storeForms_exec hva rfl f hf ha
  have hstored : StoresBytes va f.2.2.1 f.2.2.2 start bs := ⟨hstart, hbase, hfits, hpos, hle, hbytes⟩
  have hpart : s.PlainAccess va start bs.length := hp.part hstart hfits
  have hwrite : s.writeData va start bs (physOfStart (va &&& 0x1FFFFFFF) start) .uncached =
      .ok () { s with wbuf := [⟨start &&& 0x1FFFFFFF, bs⟩] } := by
    unfold State.writeData
    rw [hpart.noOca, hpart.notIsolated, hpart.noScratch, physOfStart_eq hstart]
    exact State.push_nil hb (hstored.noPort hp.wordFree)
  rw [hpart.dataAddress ha, Res.ok_andThen] at hexec
  dsimp only at hexec
  rw [hwrite] at hexec
  exact ⟨_, hexec, ⟨fun _ => rfl, rfl⟩, hstored.memoryAfter hm he hp.wordFree rfl rfl rfl rfl⟩

/-- Settles O41: each store by its form. -/
theorem uncachedStores : Obligations.UncachedStores := by
  intro s base rt off va p r hva hp hreg hm hbuf he
  subst hp hreg
  have hstores := fun hplain => State.stores_plain (rt := rt) hva hplain hm hbuf he
  simp only [storeForms, List.forall_mem_cons] at hstores
  refine ⟨fun hplain => ?_, fun hplain ha => ?_, fun hplain ha => ?_⟩
  · obtain ⟨hsb, -⟩ := hstores (hplain.word (by omega) rfl)
    exact hsb (Nat.mod_one _)
  · obtain ⟨-, hsh, -⟩ := hstores (hplain.word (by omega) rfl)
    exact hsh ha
  · obtain ⟨-, -, hsw, -⟩ := hstores (hplain.word (by omega) rfl)
    exact hsw ha

/-- Settles O42: both stores lie in the word of their address, and `storeForms` lists their tables. -/
theorem unalignedStores : Obligations.UnalignedStores := by
  intro s base rt off va r hva hreg hm hbuf he
  subst hreg
  have hstores := fun hplain => State.stores_plain (rt := rt) hva hplain hm hbuf he
  have hbase : va &&& 0xFFFFFFFC &&& 0x1FFFFFFF = va &&& 0x1FFFFFFC := by
    rw [BitVec.and_assoc]
    rfl
  simp only [storeForms, List.forall_mem_cons, hbase] at hstores
  refine ⟨fun hplain => ?_, fun hplain => ?_⟩
  · obtain ⟨-, -, -, hswl, -⟩ := hstores (hplain.word (leftCount_pos _ _) (wordBase_leftStart _ _))
    exact hswl (Nat.mod_one _)
  · obtain ⟨-, -, -, -, hswr, -⟩ := hstores (hplain.word (rightCount_pos _ _) (wordBase_rightStart _ _))
    exact hswr (Nat.mod_one _)

/-! ### SYNC (20 R182) -/

/-- Settles O47: SYNC drains the whole buffer, and each entry of ordinary memory is written in its turn. -/
theorem syncEmptiesBuffer : Obligations.SyncEmptiesBuffer := by
  intro s he hports
  have hwait : s.awaitDrain s.wbuf.length = .ok () s.drainAll := State.awaitDrain_of he _
  have hexec : exec .sync s = .next s.drainAll.advance := by
    change Res.settle ((s.awaitDrain s.wbuf.length).andThen fun _ t => .ok t.advance t) = _
    rw [hwait, Res.ok_andThen, Res.settle_ok]
  rw [State.drainAll_plain he hports] at hexec
  exact ⟨_, hexec, rfl, rfl, rfl⟩

end Sys2Proof.Machine
end

section
/-! LL and SC (40 R283, R284, 20 R173, R190, R191): what each answers once its access is known, then that access in
uncached memory and on a line the D-cache holds. -/

namespace Sys2Proof.Machine

variable {s t : State} {va : Word} {base rt : BitVec 5} {off : BitVec 16}

/-! ### The link (40 R283, R284) -/

/-- A register write as one changed field. -/
theorem State.setReg_eq (s : State) (r : BitVec 5) (v : Word) :
    ∃ gpr, s.setReg r v = { s with gpr := gpr } ∧ s.GprsAfter { s with gpr := gpr } r v := by
  have heq : s.setReg r v = { s with gpr := (s.setReg r v).gpr } := by
    unfold State.setReg
    split <;> rfl
  exact ⟨_, heq, fun k => heq ▸ s.reg_setReg r k v⟩

/-- LL whose read changes nothing: it writes its register, the link, and the bus lock unless the line is write-back. -/
theorem exec_ll_of {v : Word} {attr : Attr} (hva : va = s.ea base off) (ha : va.toNat % 4 = 0)
    (hu : s.usesAttribute va (va &&& 0x1FFFFFFF) = true)
    (h : s.load va va 4 4 = .ok (some v, (va &&& 0x1FFFFFFF, attr)) s) :
    ∃ gpr, s.GprsAfter { s with gpr := gpr } rt v ∧ exec (.ll base rt off) s = .next (State.advance { s with
      gpr := gpr, llbit := true, busLock := s.busLock || attr != .writeBack
      cp0 := { s.cp0 with llAddr := va &&& 0x1FFFFFFF } }) := by
  obtain ⟨gpr, heq, hgprs⟩ := s.setReg_eq rt v
  have hmask := mask_toNat va
  have hpa : va &&& 0x1FFFFFFF &&& 0xFFFFFFFC = va &&& 0x1FFFFFFF :=
    wordBase_of_aligned (va := va &&& 0x1FFFFFFF) (by omega)
  subst hva
  refine ⟨gpr, hgprs, ?_⟩
  change execLl base rt off s = _
  simp only [execLl, h, Res.ok_andThen, Res.settle_ok, State.loaded, id, heq, State.setLink, hu, hpa, Bool.true_and]

/-- SC with the link, once its store is made. -/
theorem exec_sc_linked {x : Unit} (hva : va = s.ea base off) (hl : s.llbit = true)
    (h : s.store va va 4 4 (s.reg rt) = .ok x t) :
    ∃ gpr, t.GprsAfter { t with gpr := gpr } rt 1 ∧
      exec (.sc base rt off) s = .next (State.advance { t with gpr := gpr, llbit := false, busLock := false }) := by
  obtain ⟨gpr, heq, hgprs⟩ := t.clearLink.setReg_eq rt 1
  subst hva
  refine ⟨gpr, hgprs, ?_⟩
  change execSc base rt off s = _
  simp only [execSc, hl, if_true, h, Res.ok_andThen, Res.settle_ok, heq]
  rfl

/-- SC without the link, once the checks of its address have passed. -/
theorem exec_sc_unlinked {p : Word × Attr} (hva : va = s.ea base off) (hl : s.llbit = false)
    (h : s.dataAddress va 4 true = .ok p s) :
    ∃ gpr, s.GprsAfter { s with gpr := gpr } rt 0 ∧
      exec (.sc base rt off) s = .next (State.advance { s with gpr := gpr, llbit := false, busLock := false }) := by
  obtain ⟨gpr, heq, hgprs⟩ := s.clearLink.setReg_eq rt 0
  subst hva
  refine ⟨gpr, hgprs, ?_⟩
  change execSc base rt off s = _
  simp only [execSc, hl, Bool.false_eq_true, if_false, h, Res.ok_andThen, Res.settle_ok, heq]
  rfl

/-! ### Words (20 R131) -/

/-- What an aligned word store puts in memory or in a line. -/
theorem storesBytes_word (be : Bool) (v : Word) (ha : va.toNat % 4 = 0) :
    StoresBytes va va (fun j => if j < 4 then some (byteOf v (if be then 3 - j else j)) else none) va
      (toBytes be 4 v) where
  startWord := rfl
  baseWord := rfl
  fits := by rw [length_toBytes]; omega
  nonempty := by rw [length_toBytes]; omega
  le := Nat.le_refl _
  bytes j := by rw [Nat.sub_self, if_pos (Nat.zero_le _), Nat.sub_zero, toBytes_getElem?]

/-! ### Uncached memory (20 R160, R161) -/

theorem State.PlainAccess.usesAttribute (hp : s.PlainAccess va va 4) :
    s.usesAttribute va (va &&& 0x1FFFFFFF) = true := by
  have hnone := hp.noScratch
  rw [physOfStart_eq rfl] at hnone
  unfold State.usesAttribute
  rw [hp.noOca, hp.notIsolated, hnone]
  rfl

/-- The word a plain access reads. -/
theorem State.load_plainWord (hp : s.PlainAccess va va 4) (ha : va.toNat % 4 = 0) (hr : s.BusReads) (hb : s.wbuf = [])
    {b : Nat → Byte} (hbytes : b = fun k => Memory.read s.mem ((va &&& 0x1FFFFFFF).toNat + k)) :
    s.load va va 4 4 =
      .ok (some (if s.cfg.bigEndian then b 0 ++ b 1 ++ b 2 ++ b 3 else b 3 ++ b 2 ++ b 1 ++ b 0),
        (va &&& 0x1FFFFFFF, .uncached)) s := by
  rw [State.load_word (hp.word (by omega) rfl) hr hb rfl (by omega) ha, ha, s.wordByte_of_aligned ha, ← hbytes,
    ofBytes_word]

/-- The entry a plain word store leaves. -/
theorem State.store_plainWord (v : Word) (hp : s.PlainAccess va va 4) (ha : va.toNat % 4 = 0) (hb : s.wbuf = []) :
    s.store va va 4 4 v = .ok () { s with wbuf := [⟨va &&& 0x1FFFFFFF, toBytes s.cfg.bigEndian 4 v⟩] } := by
  have hfree := hp.noPort
  rw [State.store_plain hp ha]
  rw [physOfStart_eq rfl] at hfree ⊢
  exact State.push_nil hb (by rwa [length_toBytes])

/-! ### A line the D-cache holds (20 R172, R173) -/

theorem State.CachedAccess.usesAttribute (hc : s.CachedAccess va) (pa : Word) : s.usesAttribute va pa = true := by
  unfold State.usesAttribute
  rw [hc.noOca, hc.notIsolated, State.dScratch_none hc.noScratch]
  rfl

/-- The lock is for write-through lines. -/
theorem State.CachedAccess.segAttr_bne (hc : s.CachedAccess va) :
    (s.segAttr .load != .writeBack) = !s.cp0.ccc.getLsbD 5 := by
  rw [State.segAttr_of hc.serves, Ccc.wb]
  cases s.cp0.ccc.getLsbD 5 <;> rfl

/-- The word of a line that is held. -/
theorem State.load_hitWord {w : Bool} {b : Nat → Byte} (hc : s.CachedAccess va) (ha : va.toNat % 4 = 0)
    (hw : s.dcache.hitWay s.dOn0 s.dOn1 s.dsize va (va &&& 0x1FFFFFFF) = some w)
    (hb : b = fun k => Sparse.get 0 (s.dcache.way w).data (offsetOf s.dsize va + k)) :
    s.load va va 4 4 =
      .ok (some (if s.cfg.bigEndian then b 0 ++ b 1 ++ b 2 ++ b 3 else b 3 ++ b 2 ++ b 1 ++ b 0),
        (va &&& 0x1FFFFFFF, s.segAttr .load)) s := by
  rw [State.load_hit hc hw (b := b) (by rw [wordBase_of_aligned ha, hb]) ha rfl, ha, ofBytes_word]

/-- A word store that hits in write-through mode. -/
theorem State.store_through {w : Bool} (v : Word) (ha : va.toNat % 4 = 0) (hc : s.CachedAccess va)
    (hwb : s.cp0.ccc.getLsbD 5 = false) (hw : s.dcache.hitWay s.dOn0 s.dOn1 s.dsize va (va &&& 0x1FFFFFFF) = some w)
    (hb : s.wbuf = []) (hp : s.touchesIceport (va &&& 0x1FFFFFFF) 4 = false) :
    s.store va va 4 4 v = .ok () { s with
      wbuf := [⟨va &&& 0x1FFFFFFF, toBytes s.cfg.bigEndian 4 v⟩]
      dcache := s.dcache.setWay w ((s.dcache.way w).writeData (offsetOf s.dsize va) (toBytes s.cfg.bigEndian 4 v)) } := by
  unfold State.store
  rw [State.dataAddress_cached hc ha, Res.ok_andThen]
  dsimp only
  rw [State.write_cached hc rfl, show Ccc.wb s.cp0.ccc = false from hwb]
  exact State.cachedStore_through hw hb (by rwa [length_toBytes])

/-- Settles O46: each clause from the access it makes. -/
theorem linkedPair : Obligations.LinkedPair := by
  refine ⟨fun s base rt off va p b hva hp hb ha hplain hbuf => ?_,
    fun s base rt off va p w b hva hp ha hi hc hw hb => ?_⟩
  · subst hp
    have hfree : s.touchesIceport (wordBase (va &&& 0x1FFFFFFF)) 4 = false := (hplain.word (by omega) rfl).wordFree
    refine ⟨fun hr => ?_, fun hl hm he => ?_, fun hl => ?_⟩
    · obtain ⟨gpr, hgprs, hexec⟩ := exec_ll_of hva ha hplain.usesAttribute (State.load_plainWord hplain ha hr hbuf hb)
      rw [show (s.busLock || Attr.uncached != .writeBack) = true from Bool.or_true _] at hexec
      exact ⟨_, hexec, hgprs, ⟨rfl, rfl, rfl, rfl⟩, rfl, rfl, rfl, fun _ => rfl, rfl⟩
    · obtain ⟨gpr, hgprs, hexec⟩ := exec_sc_linked hva hl (State.store_plainWord (s.reg rt) hplain ha hbuf)
      exact ⟨_, hexec, hgprs, ⟨rfl, rfl, rfl, rfl⟩,
        (storesBytes_word _ _ ha).memoryAfter hm he hfree rfl rfl rfl rfl, rfl⟩
    · obtain ⟨gpr, hgprs, hexec⟩ := exec_sc_unlinked hva hl (hplain.dataAddress ha)
      exact ⟨_, hexec, hgprs, ⟨rfl, rfl, rfl, rfl⟩, fun _ => rfl, rfl⟩
  · subst hp
    have hset := Kept.dcacheInv hi w
    have hdata := (storesBytes_word s.cfg.bigEndian (s.reg rt) ha).dataAfter hset s.dsize
    refine ⟨?_, fun hl hwb => ?_, fun hl hwb hbuf hport he => ?_, fun hl => ?_⟩
    · obtain ⟨gpr, hgprs, hexec⟩ := exec_ll_of hva ha (hc.usesAttribute _) (State.load_hitWord hc ha hw hb)
      rw [hc.segAttr_bne] at hexec
      exact ⟨_, hexec, hgprs, ⟨rfl, rfl, rfl, rfl⟩, rfl⟩
    · obtain ⟨gpr, hgprs, hexec⟩ := exec_sc_linked hva hl (State.store_back (s.reg rt) ha hc hwb hw)
      refine ⟨_, hexec, hgprs, ⟨rfl, rfl, rfl, rfl⟩, Cache.way_setWay_other _ _ _, ?_, ?_, rfl⟩
      · rw [State.advance_dcache, State.dcache_setDWay, Cache.way_setWay]
        exact (hset.writeData _ _).tagAfter _ _
      · rw [State.advance_dcache, State.dcache_setDWay, Cache.way_setWay]
        exact hdata
    · obtain ⟨gpr, hgprs, hexec⟩ := exec_sc_linked hva hl (State.store_through (s.reg rt) ha hc hwb hw hbuf hport)
      have hfree : s.touchesIceport (wordBase (va &&& 0x1FFFFFFF)) 4 = false :=
        State.touchesIceport_wordBase hport (by omega)
      refine ⟨_, hexec, hgprs, ⟨rfl, rfl, rfl, rfl⟩, Cache.way_setWay_other _ _ _, ?_, ?_,
        (storesBytes_word _ _ ha).memoryAfter hi.memory he hfree rfl rfl rfl rfl, rfl⟩
      · rw [State.advance_dcache, Cache.way_setWay, CacheSet.writeData_tags]
      · rw [State.advance_dcache, Cache.way_setWay]
        exact hdata
    · obtain ⟨gpr, hgprs, hexec⟩ := exec_sc_unlinked hva hl (State.dataAddress_cached hc ha)
      exact ⟨_, hexec, hgprs, ⟨rfl, rfl, rfl, rfl⟩, rfl⟩

end Sys2Proof.Machine
end

section
/-! The computational instructions (41): what a result written to a register or to HI and LO leaves unchanged, what the
model's comparisons, overflow tests, shifts, products and quotients are, then one line per instruction. -/

namespace Sys2Proof.Machine

variable {s : State}

/-! ### Immediates (30 R222) -/

theorem zext_eq_append (x : BitVec 16) : zext x = (0 : BitVec 16) ++ x :=
  BitVec.setWidth_eq_append (by decide)

theorem toInt_sext (x : BitVec 16) : (sext x).toInt = x.toInt := BitVec.toInt_signExtend_of_le (by decide)

/-! ### Comparisons (10 R27) -/

theorem setIf_ltSigned (a b : Word) : setIf (ltSigned a b) = if a.toInt < b.toInt then 1 else 0 := by
  simp only [setIf, ltSigned, decide_eq_true_eq]

theorem setIf_ltUnsigned (a b : Word) : setIf (ltUnsigned a b) = if a.toNat < b.toNat then 1 else 0 := by
  simp only [setIf, ltUnsigned, decide_eq_true_eq]

/-! ### Results in a register (41, sections 2 and 3) -/

/-- A result whose value the statement writes in another way. -/
theorem State.yields_of_eq {i : Instr} {r : BitVec 5} {v x : Word} (hexec : exec i s = s.result r x) (hv : x = v) :
    s.Yields i r v :=
  hv ▸ State.yields_of hexec

/-- Settles O23: each result is the model's, with the immediate and the comparison written out. -/
theorem immediateResults : Obligations.ImmediateResults := by
  intro s rs rt imm
  rw [← zext_eq_append, ← toInt_sext]
  exact ⟨State.yields_of rfl, State.yields_of_eq rfl (setIf_ltSigned _ _), State.yields_of_eq rfl (setIf_ltUnsigned _ _),
    State.yields_of rfl, State.yields_of rfl, State.yields_of rfl, State.yields_of rfl⟩

/-- Settles O24: each result is the model's; NOR has the bits of its definition. -/
theorem registerResults : Obligations.RegisterResults := by
  intro s rs rt rd
  refine ⟨State.yields_of rfl, State.yields_of rfl, State.yields_of_eq rfl (setIf_ltSigned _ _),
    State.yields_of_eq rfl (setIf_ltUnsigned _ _), State.yields_of rfl, State.yields_of rfl, State.yields_of rfl,
    _, State.yields_of rfl, fun k hk => ?_⟩
  rw [BitVec.getLsbD_not, BitVec.getLsbD_or, decide_eq_true hk, Bool.true_and, Bool.not_or]

/-! ### Overflow (41 R300) -/

/-- Reduction to a word loses what lies outside the signed range. -/
theorem toInt_ofInt_ne_iff (e : Int) : (BitVec.ofInt 32 e).toInt ≠ e ↔ e ≥ 2 ^ 31 ∨ e < -2 ^ 31 := by
  have hlt := BitVec.toInt_lt (x := BitVec.ofInt 32 e)
  have hle := BitVec.le_toInt (x := BitVec.ofInt 32 e)
  constructor
  · contrapose!
    exact fun ⟨hhigh, hlow⟩ => BitVec.toInt_ofInt_eq_self (by decide) hlow hhigh
  · omega

theorem addOverflow_eq (a b : Word) : addOverflow a b = a.saddOverflow b := by
  have hsum : a + b = BitVec.ofInt 32 (a.toInt + b.toInt) :=
    BitVec.eq_of_toInt_eq (by rw [BitVec.toInt_add, BitVec.toInt_ofInt])
  rw [addOverflow, hsum, decide_eq_decide.mpr (toInt_ofInt_ne_iff _), Bool.decide_or]
  rfl

theorem subOverflow_eq (a b : Word) : subOverflow a b = a.ssubOverflow b := by
  have hdiff : a - b = BitVec.ofInt 32 (a.toInt - b.toInt) :=
    BitVec.eq_of_toInt_eq (by rw [BitVec.toInt_sub, BitVec.toInt_ofInt])
  rw [subOverflow, hdiff, decide_eq_decide.mpr (toInt_ofInt_ne_iff _), Bool.decide_or]
  rfl

/-- A sum overflows when operands of one sign give the other sign. -/
theorem addOverflow_iff (a b : Word) : addOverflow a b = true ↔ a.msb = b.msb ∧ (a + b).msb ≠ a.msb := by
  rw [addOverflow_eq, BitVec.saddOverflow_eq]
  simp

/-- A difference overflows when operands of two signs give the subtrahend's. -/
theorem subOverflow_iff (a b : Word) : subOverflow a b = true ↔ a.msb ≠ b.msb ∧ (a - b).msb ≠ a.msb := by
  rw [subOverflow_eq, BitVec.ssubOverflow_eq]
  cases a.msb <;> cases b.msb <;> simp

/-- A trapping operation raises Ov on overflow and yields its result otherwise. -/
theorem State.outcome_of_trapping {i : Instr} {r : BitVec 5} {v : Word} {overflow : Bool} {P : Prop}
    (hexec : exec i s = s.trapping r overflow v) (hP : overflow = true ↔ P) :
    (P → exec i s = s.raised .ov) ∧ (¬P → s.Yields i r v) :=
  ⟨fun h => hexec.trans (if_pos (hP.mpr h)), fun h => State.yields_of (hexec.trans (if_neg (mt hP.mp h)))⟩

/-- Settles O25: the model's overflow tests are those of the sign bits. -/
theorem overflowTraps : Obligations.OverflowTraps := by
  refine ⟨?_, ?_, ?_⟩
  · rintro s rs rt rd _ _ _ rfl rfl rfl
    exact State.outcome_of_trapping rfl (addOverflow_iff _ _)
  · rintro s rs rt imm _ _ _ rfl rfl rfl
    exact State.outcome_of_trapping rfl (addOverflow_iff _ _)
  · rintro s rs rt rd _ _ _ rfl rfl rfl
    exact State.outcome_of_trapping rfl (subOverflow_iff _ _)

/-! ### Shifts (41, section 4) -/

section ShiftedBits

variable {k : Nat} (x : Word) (n : Nat)

theorem getLsbD_shiftedLeft (hk : k < 32) : (x <<< n).getLsbD k = (decide (n ≤ k) && x.getLsbD (k - n)) := by
  simp only [BitVec.getLsbD_shiftLeft, decide_eq_true hk, Bool.true_and, ← decide_not, Nat.not_lt]

theorem getLsbD_shiftedRight : (x >>> n).getLsbD k = x.getLsbD (k + n) := by
  rw [BitVec.getLsbD_ushiftRight, Nat.add_comm]

theorem getLsbD_shiftedArith (hk : k < 32) :
    (x.sshiftRight n).getLsbD k = if k + n < 32 then x.getLsbD (k + n) else x.getLsbD 31 := by
  rw [BitVec.getLsbD_sshiftRight, decide_eq_false (by omega), Bool.not_false, Bool.true_and, Nat.add_comm,
    BitVec.msb_eq_getLsbD_last]

end ShiftedBits

/-- Settles O26: one lemma about the bits of each kind of shift, for either count. -/
theorem shiftResults : Obligations.ShiftResults := by
  rintro s rs rt rd sh _ _ rfl rfl
  exact ⟨⟨_, State.yields_of rfl, fun _ hk => getLsbD_shiftedLeft _ _ hk⟩,
    ⟨_, State.yields_of rfl, fun _ _ => getLsbD_shiftedRight _ _⟩,
    ⟨_, State.yields_of rfl, fun _ hk => getLsbD_shiftedArith _ _ hk⟩,
    ⟨_, State.yields_of rfl, fun _ hk => getLsbD_shiftedLeft _ _ hk⟩,
    ⟨_, State.yields_of rfl, fun _ _ => getLsbD_shiftedRight _ _⟩,
    ⟨_, State.yields_of rfl, fun _ hk => getLsbD_shiftedArith _ _ hk⟩⟩

/-! ### The multiply/divide unit (30 R247) and results in HI and LO (10 R23, R24) -/

theorem State.withMdu_of_usable {x : Result} (h : s.mduUsable = true) : s.withMdu x = x := if_pos h

theorem State.withMdu_of_unusable {x : Result} (h : s.mduUsable = false) : s.withMdu x = s.raised .ri :=
  if_neg (Bool.eq_false_iff.mp h)

theorem State.withMac_of_unusable {x : Result} (h : s.macUsable = false) : s.withMac x = s.raised .ri :=
  if_neg (Bool.eq_false_iff.mp h)

theorem State.mduUsable_eq_false : s.mduUsable = false ↔ s.cfg.mduPresent = false ∨ s.cp0.ccc.getLsbD 21 = false :=
  Bool.and_eq_false_iff

theorem State.macUsable_of_absent
    (h : s.cfg.macPresent = false ∨ s.cp0.ccc.getLsbD 21 = false ∨ s.cp0.ccc.getLsbD 20 = false) :
    s.macUsable = false := by
  simp only [State.macUsable, Ccc.mul, Ccc.mad, Bool.and_eq_false_iff]
  rcases h with hmac | hmul | hmad
  · exact .inl (.inl (.inr hmac))
  · exact .inl (.inr hmul)
  · exact .inr hmad

theorem State.setHiLo_advance_writesHiLo (s : State) (hi lo : Word) :
    s.WritesHiLo (s.setHiLo hi lo).advance hi lo :=
  ⟨fun _ => rfl, rfl, rfl, ⟨rfl, rfl, rfl, rfl⟩, fun _ => rfl, rfl⟩

/-- A 64-bit result is HI and LO together. -/
theorem State.hiLoResult_writes (s : State) (p : BitVec 64) :
    ∃ t, s.hiLoResult p = .next t ∧ s.WritesHiLo t t.hi t.lo ∧ t.hi ++ t.lo = p :=
  ⟨_, rfl, s.setHiLo_advance_writesHiLo _ _, BitVec.extractLsb'_append_extractLsb' (w := 32) (len := 32)⟩

/-- Settles O31: the moves by the usable unit's rule, RI by the unusable unit's. -/
theorem hiLoMovesAndAbsentUnits : Obligations.HiLoMovesAndAbsentUnits := by
  refine ⟨fun s r hu => ⟨State.yields_of (State.withMdu_of_usable hu), State.yields_of (State.withMdu_of_usable hu),
    ⟨_, State.withMdu_of_usable hu, s.setHiLo_advance_writesHiLo _ _⟩,
    ⟨_, State.withMdu_of_usable hu, s.setHiLo_advance_writesHiLo _ _⟩⟩, fun s rs rt r => ⟨fun h => ?_, fun h => ?_⟩⟩
  · have hri : ∀ x, s.withMdu x = s.raised .ri := fun _ => State.withMdu_of_unusable (State.mduUsable_eq_false.mpr h)
    simp only [List.forall_mem_cons]
    exact ⟨hri _, hri _, hri _, hri _, hri _, hri _, hri _, hri _, nofun⟩
  · have hri : ∀ x, s.withMac x = s.raised .ri := fun _ => State.withMac_of_unusable (State.macUsable_of_absent h)
    simp only [List.forall_mem_cons]
    exact ⟨hri _, hri _, hri _, hri _, nofun⟩

/-! ### Products (41 R331, R332) -/

/-- A signed product is at most 2^62 in size, so 64 bits hold it. -/
theorem toInt_signedProduct (a b : Word) : (signedProduct a b).toInt = a.toInt * b.toInt := by
  have hle := BitVec.le_toInt_mul_toInt (x := a) (y := b)
  have hge := BitVec.toInt_mul_toInt_le (x := a) (y := b)
  exact BitVec.toInt_ofInt_eq_self (by decide) (by omega) (by omega)

theorem toNat_unsignedProduct (a b : Word) : (unsignedProduct a b).toNat = a.toNat * b.toNat := by
  have hlt : a.toNat * b.toNat < 2 ^ 32 * 2 ^ 32 := Nat.mul_lt_mul'' a.isLt b.isLt
  exact Nat.mod_eq_of_lt hlt

/-- Settles O28: HI and LO hold the model's product, and that product is exact. -/
theorem products : Obligations.Products := by
  intro s rs rt hu
  constructor
  · obtain ⟨t, hres, hframe, hp⟩ := s.hiLoResult_writes (signedProduct (s.reg rs) (s.reg rt))
    exact ⟨t, (State.withMdu_of_usable hu).trans hres, hframe, hp ▸ toInt_signedProduct _ _⟩
  · obtain ⟨t, hres, hframe, hp⟩ := s.hiLoResult_writes (unsignedProduct (s.reg rs) (s.reg rt))
    exact ⟨t, (State.withMdu_of_usable hu).trans hres, hframe, hp ▸ toNat_unsignedProduct _ _⟩

/-! ### Quotients and remainders (41 R333, R334) -/

theorem divDefined_iff (a b : Word) :
    divDefined a b = true ↔ b ≠ 0 ∧ ¬(a = 0x80000000 ∧ b = 0xFFFFFFFF) := by
  simp [divDefined, imp_iff_not_or]

/-- Truncation toward zero: the quotient times the divisor and the remainder make the dividend, and the remainder is
smaller than the divisor and has the dividend's sign. -/
theorem sdiv_srem_spec {a b : Word} (hb : b ≠ 0) (h : ¬(a = 0x80000000 ∧ b = 0xFFFFFFFF)) :
    a.toInt = (a.sdiv b).toInt * b.toInt + (a.srem b).toInt ∧ (a.srem b).toInt.natAbs < b.toInt.natAbs ∧
      (a.srem b = 0 ∨ (a.srem b).msb = a.msb) := by
  have hpos : 0 < b.toInt.natAbs :=
    Int.natAbs_pos.mpr fun h0 => hb (BitVec.eq_of_toInt_eq (h0.trans BitVec.toInt_zero.symm))
  rw [BitVec.toInt_sdiv_of_ne_or_ne a b (not_and_or.mp h), BitVec.toInt_srem, Int.natAbs_tmod, BitVec.msb_srem]
  refine ⟨(Int.tdiv_mul_add_tmod _ _).symm, Nat.mod_lt _ hpos, or_iff_not_imp_left.mpr fun hz => ?_⟩
  rw [decide_eq_true hz, Bool.and_true]

/-- A defined DIV leaves the truncated remainder in HI and the quotient, which then fits its word, in LO. -/
theorem exec_div_defined {rs rt : BitVec 5} (hu : s.mduUsable = true) (hd : divDefined (s.reg rs) (s.reg rt) = true) :
    exec (.div rs rt) s =
      .next (s.setHiLo ((s.reg rs).srem (s.reg rt)) ((s.reg rs).sdiv (s.reg rt))).advance := by
  obtain ⟨-, hfits⟩ := (divDefined_iff _ _).mp hd
  rw [← BitVec.ofInt_toInt (x := (s.reg rs).srem _), ← BitVec.ofInt_toInt (x := (s.reg rs).sdiv _), BitVec.toInt_srem,
    BitVec.toInt_sdiv_of_ne_or_ne _ _ (not_and_or.mp hfits)]
  exact (State.withMdu_of_usable hu).trans (by rw [if_pos hd])

theorem exec_div_undefined {rs rt : BitVec 5} (hu : s.mduUsable = true)
    (hd : ¬divDefined (s.reg rs) (s.reg rt) = true) :
    exec (.div rs rt) s = .next (s.setHiLo s.freeHi s.freeLo).advance :=
  (State.withMdu_of_usable hu).trans (by rw [if_neg hd])

theorem exec_divu_defined {rs rt : BitVec 5} (hu : s.mduUsable = true) (hb : s.reg rt ≠ 0) :
    exec (.divu rs rt) s = .next (s.setHiLo (s.reg rs % s.reg rt) (s.reg rs / s.reg rt)).advance :=
  (State.withMdu_of_usable hu).trans (by
    rw [if_pos (bne_iff_ne.mpr hb), ← BitVec.toNat_umod, ← BitVec.toNat_udiv]
    simp only [BitVec.ofNat_toNat, BitVec.setWidth_eq])

theorem exec_divu_zero {rs rt : BitVec 5} (hu : s.mduUsable = true) (hb : s.reg rt = 0) :
    exec (.divu rs rt) s = .next (s.setHiLo s.freeHi s.freeLo).advance :=
  (State.withMdu_of_usable hu).trans (by rw [hb]; rfl)

/-- Settles O30: either division completes, and where it is defined it is the truncated one. -/
theorem divisions : Obligations.Divisions := by
  rintro s rs rt _ _ hu rfl rfl
  constructor
  · by_cases hd : divDefined (s.reg rs) (s.reg rt) = true
    · exact ⟨_, exec_div_defined hu hd, s.setHiLo_advance_writesHiLo _ _, sdiv_srem_spec⟩
    · exact ⟨_, exec_div_undefined hu hd, s.setHiLo_advance_writesHiLo _ _,
        fun hb hfits => absurd ((divDefined_iff _ _).mpr ⟨hb, hfits⟩) hd⟩
  · by_cases hb : s.reg rt = 0
    · exact ⟨_, exec_divu_zero hu hb, s.setHiLo_advance_writesHiLo _ _, fun hne => absurd hb hne⟩
    · have hpos : 0 < (s.reg rt).toNat := Nat.pos_of_ne_zero fun h0 => hb (BitVec.eq_of_toNat_eq h0)
      exact ⟨_, exec_divu_defined hu hb, s.setHiLo_advance_writesHiLo _ _,
        fun _ => ⟨(Nat.div_add_mod' _ _).symm, Nat.mod_lt _ hpos⟩⟩

end Sys2Proof.Machine
end

section
/-! The extensions (42): which bit the search of FFS and FFC finds, the bits of ADDCIU's window and of a shifted
doubleword, the signed order of MIN and MAX, and the accumulator's arithmetic. -/

namespace Sys2Proof.Machine

variable {s : State}

/-! ### The highest set bit (42 R352, R353) -/

/-- Below a set bit `j` the search does not go: it ends at a set bit above which all are clear. -/
theorem topBit_spec {x : Word} {n j : Nat} (hn : n ≤ 32) (hj : j < n) (hx : x.getLsbD j = true) :
    (topBit x n).toNat < n ∧ x.getLsbD (topBit x n).toNat = true ∧
      ∀ k < n, (topBit x n).toNat < k → x.getLsbD k = false := by
  induction n with
  | zero => omega
  | succ n ih =>
    cases hbit : x.getLsbD n with
    | true =>
      have htop : (topBit x (n + 1)).toNat = n := by
        rw [topBit, hbit, if_pos rfl, BitVec.toNat_ofNat, Nat.mod_eq_of_lt (by omega)]
      rw [htop]
      exact ⟨Nat.lt_succ_self n, hbit, fun k _ _ => by omega⟩
    | false =>
      have htop : topBit x (n + 1) = topBit x n := by rw [topBit, hbit, if_neg Bool.false_ne_true]
      have hjn : j ≠ n := fun h => Bool.false_ne_true (hbit.symm.trans (h ▸ hx))
      obtain ⟨hlt, hset, hclear⟩ := ih (by omega) (by omega)
      rw [htop]
      refine ⟨by omega, hset, fun k hk hgt => ?_⟩
      rcases Nat.lt_succ_iff_lt_or_eq.mp hk with hlow | rfl
      · exact hclear k hlow hgt
      · exact hbit

theorem exists_getLsbD_of_ne_zero {x : Word} (h : x ≠ 0) : ∃ j < 32, x.getLsbD j = true := by
  contrapose! h
  exact BitVec.eq_of_getLsbD_eq fun j hj => by
    rw [Bool.eq_false_iff.mpr (h j hj)]
    exact BitVec.getLsbD_zero.symm

/-- The search over a whole word that is not zero. -/
theorem topBit_word {x : Word} (h : x ≠ 0) :
    (topBit x 32).toNat < 32 ∧ x.getLsbD (topBit x 32).toNat = true ∧
      ∀ k < 32, (topBit x 32).toNat < k → x.getLsbD k = false :=
  have ⟨_, hj, hx⟩ := exists_getLsbD_of_ne_zero h
  topBit_spec (Nat.le_refl 32) hj hx

theorem topBit_zero : topBit 0 32 = 0xFFFFFFFF := by decide

/-- FFS finds the highest set bit. -/
theorem topBit_highestSet (x : Word) :
    (x = 0 → topBit x 32 = 0xFFFFFFFF) ∧
      (x ≠ 0 → x.getLsbD (topBit x 32).toNat = true ∧ ∀ k, (topBit x 32).toNat < k → x.getLsbD k = false) := by
  refine ⟨fun h => h ▸ topBit_zero, fun h => ?_⟩
  obtain ⟨-, hset, hclear⟩ := topBit_word h
  refine ⟨hset, fun k hgt => ?_⟩
  rcases Nat.lt_or_ge k 32 with hk | hk
  · exact hclear k hk hgt
  · exact BitVec.getLsbD_of_ge x k hk

/-- FFC finds the highest clear bit: it searches the complement. -/
theorem topBit_not_highestClear (x : Word) :
    (x = 0xFFFFFFFF → topBit (~~~x) 32 = 0xFFFFFFFF) ∧
      (x ≠ 0xFFFFFFFF → (topBit (~~~x) 32).toNat < 32 ∧ x.getLsbD (topBit (~~~x) 32).toNat = false ∧
        ∀ k < 32, (topBit (~~~x) 32).toNat < k → x.getLsbD k = true) := by
  have hbit : ∀ k < 32, (~~~x).getLsbD k = !x.getLsbD k := fun k hk => by
    rw [BitVec.getLsbD_not, decide_eq_true hk, Bool.true_and]
  refine ⟨fun h => by rw [h]; exact topBit_zero, fun h => ?_⟩
  obtain ⟨hlt, hset, hclear⟩ := topBit_word (x := ~~~x) fun h0 => h (BitVec.not_inj.mp h0)
  rw [hbit _ hlt, Bool.not_eq_true'] at hset
  refine ⟨hlt, hset, fun k hk hgt => ?_⟩
  simpa only [hbit k hk, Bool.not_eq_false'] using hclear k hk hgt

/-! ### ADDCIU's window (42 R351) -/

theorem getLsbD_merge (mask old new : Word) (k : Nat) :
    (merge mask old new).getLsbD k = if mask.getLsbD k then new.getLsbD k else old.getLsbD k := by
  rcases Nat.lt_or_ge k 32 with hk | hk
  · rw [merge, BitVec.getLsbD_or, BitVec.getLsbD_and, BitVec.getLsbD_and, BitVec.getLsbD_not, decide_eq_true hk]
    cases mask.getLsbD k <;> simp
  · simp [BitVec.getLsbD_of_ge _ k hk]

/-- The mask is the low CMask bits; none for CMask = 0 (92 D22). -/
theorem State.getLsbD_circularMask (s : State) {k : Nat} (hk : k < 32) :
    s.circularMask.getLsbD k = decide (k < s.cp0.cmask.toNat % 32) := by
  have hmask : s.circularMask = BitVec.ofNat 32 (2 ^ (s.cp0.cmask.toNat % 32) - 1) := by
    rw [← BitVec.ofNat_sub_ofNat_of_le _ _ (by decide) Nat.one_le_two_pow, ← Nat.one_shiftLeft]
    rfl
  rw [hmask, BitVec.getLsbD_ofNat, Nat.testBit_two_pow_sub_one, decide_eq_true hk, Bool.true_and]

theorem getLsbD_addciu (s : State) (a sum : Word) {k : Nat} (hk : k < 32) :
    (merge s.circularMask a sum).getLsbD k =
      if k < s.cp0.cmask.toNat % 32 then sum.getLsbD k else a.getLsbD k := by
  rw [getLsbD_merge, s.getLsbD_circularMask hk]
  simp only [decide_eq_true_eq]

/-! ### The shifted doubleword (42 R356, R357) -/

section ShiftedDoubleword

variable (a b : Word) {n k : Nat}

theorem getLsbD_selectRight (hk : k < 32) :
    (((a ++ b) >>> n).extractLsb' 0 32).getLsbD k =
      if k + n < 32 then b.getLsbD (k + n) else a.getLsbD (k + n - 32) := by
  rw [BitVec.getLsbD_extractLsb', BitVec.getLsbD_ushiftRight, BitVec.getLsbD_append, decide_eq_true hk, Bool.true_and,
    Nat.zero_add, Nat.add_comm n k]

theorem getLsbD_selectLeft (hn : n < 32) (hk : k < 32) :
    (((a ++ b) <<< n).extractLsb' 32 32).getLsbD k =
      if n ≤ k then a.getLsbD (k - n) else b.getLsbD (32 + k - n) := by
  rw [BitVec.getLsbD_extractLsb', BitVec.getLsbD_shiftLeft, BitVec.getLsbD_append, decide_eq_true hk]
  by_cases hle : n ≤ k
  · rw [if_pos hle, if_neg (by omega), decide_eq_true (by omega), decide_eq_false (by omega),
      show 32 + k - n - 32 = k - n by omega]
    rfl
  · rw [if_neg hle, if_pos (by omega), decide_eq_true (by omega), decide_eq_false (by omega)]
    rfl

end ShiftedDoubleword

/-! ### The signed order (42 R354, R355) -/

theorem signedMin_spec (a b : Word) {v : Word} (hv : v = if ltSigned a b then a else b) :
    (v = a ∨ v = b) ∧ v.toInt ≤ a.toInt ∧ v.toInt ≤ b.toInt := by
  subst hv
  rcases lt_or_ge a.toInt b.toInt with h | h
  · rw [ltSigned, decide_eq_true h]
    exact ⟨.inl rfl, Int.le_refl _, Int.le_of_lt h⟩
  · rw [ltSigned, decide_eq_false (Int.not_lt.mpr h)]
    exact ⟨.inr rfl, h, Int.le_refl _⟩

theorem signedMax_spec (a b : Word) {v : Word} (hv : v = if ltSigned b a then a else b) :
    (v = a ∨ v = b) ∧ a.toInt ≤ v.toInt ∧ b.toInt ≤ v.toInt := by
  subst hv
  rcases lt_or_ge b.toInt a.toInt with h | h
  · rw [ltSigned, decide_eq_true h]
    exact ⟨.inl rfl, Int.le_refl _, Int.le_of_lt h⟩
  · rw [ltSigned, decide_eq_false (Int.not_lt.mpr h)]
    exact ⟨.inr rfl, h, Int.le_refl _⟩

/-- Settles O27: each result is the model's, and the lemma about its bits or its order says the rest. -/
theorem extensionResults : Obligations.ExtensionResults := by
  refine ⟨fun s rs rd => ⟨⟨_, State.yields_of rfl, topBit_highestSet _⟩,
    ⟨_, State.yields_of rfl, topBit_not_highestClear _⟩⟩, ?_⟩
  rintro s rs rt rd imm _ _ _ _ rfl rfl rfl rfl
  have hn : s.cp0.rotate.toNat % 32 < 32 := Nat.mod_lt _ (by decide)
  exact ⟨⟨_, State.yields_of rfl, fun _ hk => getLsbD_addciu s _ _ hk⟩,
    ⟨_, State.yields_of rfl, fun _ hk => getLsbD_selectRight _ _ hk⟩,
    ⟨_, State.yields_of rfl, fun _ hk => getLsbD_selectLeft _ _ hn hk⟩,
    ⟨_, State.yields_of rfl, signedMin_spec _ _ rfl⟩,
    ⟨_, State.yields_of rfl, signedMax_spec _ _ rfl⟩⟩

/-! ### The accumulator (42 R358 to R361) -/

theorem State.withMac_of_usable {x : Result} (h : s.macUsable = true) : s.withMac x = x := if_pos h

/-- An accumulating instruction completes with its sum or difference in HI and LO. -/
theorem State.accumulates_of {i : Instr} {p : BitVec 64} (hu : s.macUsable = true)
    (hexec : exec i s = s.withMac (s.hiLoResult p)) :
    ∃ t, exec i s = .next t ∧ s.WritesHiLo t t.hi t.lo ∧ t.hi ++ t.lo = p := by
  rw [hexec, State.withMac_of_usable hu]
  exact s.hiLoResult_writes p

theorem toNat_ofInt_eq_emod (e : Int) : ((BitVec.ofInt 64 e).toNat : Int) = e % 2 ^ 64 := by
  rw [BitVec.toNat_ofInt]
  exact Int.toNat_of_nonneg (Int.emod_nonneg _ (by decide))

theorem toNat_add_ofInt (acc : BitVec 64) (e : Int) :
    ((acc + BitVec.ofInt 64 e).toNat : Int) = (acc.toNat + e) % 2 ^ 64 := by
  rw [← toNat_ofInt_eq_emod, BitVec.ofInt_add, BitVec.ofInt_natCast, BitVec.ofNat_toNat, BitVec.setWidth_eq]

theorem toNat_sub_ofInt (acc : BitVec 64) (e : Int) :
    ((acc - BitVec.ofInt 64 e).toNat : Int) = (acc.toNat - e) % 2 ^ 64 := by
  rw [BitVec.sub_eq_add_neg, ← BitVec.ofInt_neg, toNat_add_ofInt, Int.sub_eq_add_neg]

theorem unsignedProduct_eq_ofInt (a b : Word) : unsignedProduct a b = BitVec.ofInt 64 (a.toNat * b.toNat) := by
  rw [← Int.natCast_mul, BitVec.ofInt_natCast, unsignedProduct]

/-- Settles O29: HI and LO hold the 64-bit sum or difference, and 64-bit arithmetic is arithmetic modulo 2^64. -/
theorem accumulates : Obligations.Accumulates := by
  intro s rs rt hu
  refine ⟨?_, ?_, ?_, ?_⟩
  · obtain ⟨t, hres, hframe, hp⟩ := State.accumulates_of (i := .madd rs rt) hu rfl
    exact ⟨t, hres, hframe, by rw [hp, signedProduct, toNat_add_ofInt, State.accumulator]⟩
  · obtain ⟨t, hres, hframe, hp⟩ := State.accumulates_of (i := .maddu rs rt) hu rfl
    exact ⟨t, hres, hframe, by rw [hp, BitVec.toNat_add, toNat_unsignedProduct, State.accumulator]⟩
  · obtain ⟨t, hres, hframe, hp⟩ := State.accumulates_of (i := .msub rs rt) hu rfl
    exact ⟨t, hres, hframe, by rw [hp, signedProduct, toNat_sub_ofInt, State.accumulator]⟩
  · obtain ⟨t, hres, hframe, hp⟩ := State.accumulates_of (i := .msubu rs rt) hu rfl
    exact ⟨t, hres, hframe, by rw [hp, unsignedProduct_eq_ofInt, toNat_sub_ofInt, State.accumulator]⟩

end Sys2Proof.Machine
end

section
/-! Jumps and branches (43): what a transfer writes and notes before it goes on, the outcome of the shared operations
`jump`, `branch` and `branchLikely` outside a delay slot, their stop inside one, then one line per instruction. -/

namespace Sys2Proof.Machine

variable {s t : State} {r : BitVec 5} {target : Word}

/-! ### The link and what is noted (43 R374, 60 R561, R563) -/

/-- `s` after a transfer has linked in `r` (0 for no link) and noted its event. -/
def State.linkedNoted (s : State) (r : BitVec 5) (dcs : Word) (trace : Trace) : State :=
  { s.setReg r s.link with cp0 := { s.cp0 with dcs := dcs }, trace := trace }

theorem State.traceTransfer_linked (s : State) (r : BitVec 5) (taken : Bool) :
    (s.setReg r s.link).traceTransfer taken =
      s.linkedNoted r (if s.tracing then s.cp0.dcs ||| 0x21 else s.cp0.dcs)
        (if s.tracing && taken then .slot else s.trace) := by
  obtain ⟨gpr, heq, -⟩ := s.setReg_eq r s.link
  unfold State.linkedNoted
  rw [heq]
  change (if s.tracing then _ else _) = _
  cases s.tracing <;> cases taken <;> rfl

theorem State.noted_frame (s : State) (taken : Bool) (target : Word) :
    (s.traceTransfer taken).targetCheck target = { s with
      cp0 := { s.cp0 with dcs := ((s.traceTransfer taken).targetCheck target).cp0.dcs }
      trace := ((s.traceTransfer taken).targetCheck target).trace } := by
  have htrace : s.traceTransfer taken = { s with
      cp0 := { s.cp0 with dcs := (s.traceTransfer taken).cp0.dcs }, trace := (s.traceTransfer taken).trace } := by
    unfold State.traceTransfer
    split <;> rfl
  unfold State.targetCheck
  split
  · exact congrArg (State.setDcs · 0x3) htrace
  · exact htrace

theorem State.noted_linked (s : State) (r : BitVec 5) (taken : Bool) (target : Word) :
    ((s.setReg r s.link).traceTransfer taken).targetCheck target =
      s.linkedNoted r (s.dcsOfBranch target) (if s.tracing && taken then .slot else s.trace) := by
  obtain ⟨gpr, heq, -⟩ := s.setReg_eq r s.link
  obtain ⟨hdcs, htrace⟩ := State.noted_branch { s with gpr := gpr } taken target
  unfold State.linkedNoted
  rw [heq, State.noted_frame, hdcs, htrace]
  rfl

/-- Whatever comes next, a transfer changes no more than its frame says, and the link is the address behind the slot. -/
theorem State.linkedNoted_frame {dcs : Word} {trace : Trace}
    (h : t = { s.linkedNoted r dcs trace with
      pc := t.pc, npc := t.npc, inSlot := t.inSlot, taken := t.taken, slotOfJr := t.slotOfJr, tlbRecent := none }) :
    s.TransferFrame t r ∧ (r ≠ 0 → t.reg r = s.pc + 8) := by
  obtain ⟨gpr, heq, hgprs⟩ := s.setReg_eq r s.link
  unfold State.linkedNoted at h
  rw [heq] at h
  have hreg : ∀ k, t.reg k = if k = r ∧ r ≠ 0 then s.pc + 8 else s.reg k := fun k => by
    rw [h]
    exact hgprs k
  refine ⟨⟨fun a => ?_, fun k hk => ?_, ?_⟩, fun hr => ?_⟩
  · rw [h]
  · rw [hreg, if_neg fun hlink => hk hlink.1]
  · rw [h]
  · rw [hreg, if_pos ⟨rfl, hr⟩]

/-! ### The shared operations outside a delay slot (43 R370, R373) -/

theorem State.linked_notInSlot (hs : s.inSlot = false) : ¬(s.setReg r s.link).inSlot = true := by
  rw [State.setReg_inSlot, hs]
  exact Bool.false_ne_true

/-- A jump that links in `r`. -/
theorem State.jump_outcome {i : Instr} {viaRegister : Bool} (hs : s.inSlot = false)
    (hexec : exec i s = (s.setReg r s.link).jump target viaRegister) :
    ∃ t, exec i s = .next t ∧ s.TakenTo t target ∧ s.TransferFrame t r ∧ (r ≠ 0 → t.reg r = s.pc + 8) := by
  have hnext := hexec.trans (if_neg (State.linked_notInSlot hs))
  rw [State.traceTransfer_linked, Bool.and_true] at hnext
  exact ⟨_, hnext, ⟨State.setReg_npc .., rfl, rfl, rfl, rfl, rfl⟩, State.linkedNoted_frame rfl⟩

/-- A Branch Likely that links in `r`. -/
theorem State.branchLikely_outcome {cond : Prop} {taken : Bool} (survives : Bool) (hs : s.inSlot = false)
    (hc : taken = true ↔ cond) :
    s.LikelyOutcome ((s.setReg r s.link).branchLikely survives taken target) survives r cond target := by
  have hnext : (s.setReg r s.link).branchLikely survives taken target = _ := if_neg (State.linked_notInSlot hs)
  have hnpc : (s.setReg r s.link).npc = s.npc := State.setReg_npc ..
  rw [State.noted_linked] at hnext
  rw [hnext]
  refine ⟨fun h => ?_, fun h => ?_⟩
  · obtain rfl : taken = true := hc.mpr h
    rw [Bool.and_true]
    exact ⟨_, rfl, ⟨hnpc, rfl, rfl, rfl, rfl, rfl⟩, State.linkedNoted_frame rfl⟩
  · obtain rfl : taken = false := Bool.eq_false_iff.mpr fun htaken => h (hc.mp htaken)
    rw [Bool.and_false]
    cases survives with
    | true => exact ⟨_, rfl, ⟨hnpc, congrArg (· + 4) hnpc, rfl, rfl, rfl, rfl⟩, State.linkedNoted_frame rfl⟩
    | false =>
      exact ⟨_, rfl, ⟨congrArg (· + 4) hnpc, congrArg (· + 8) hnpc, rfl, rfl, rfl, rfl⟩,
        State.linkedNoted_frame rfl⟩

/-- An ordinary branch that links in `r`: its slot executes as one that survives. -/
theorem State.branch_outcome {cond : Prop} {taken : Bool} (hs : s.inSlot = false) (hc : taken = true ↔ cond) :
    s.BranchOutcome ((s.setReg r s.link).branch taken target) r cond target :=
  State.branchLikely_outcome true hs hc

/-! ### The conditions (43 R382 to R385) -/

section Conditions

variable (s) (rs : BitVec 5)

theorem State.negative_iff : s.negative rs = true ↔ (s.reg rs).toInt < 0 := by
  have hmsb : s.negative rs = (s.reg rs).msb := (BitVec.msb_eq_getLsbD_last _).symm
  rw [hmsb, BitVec.msb_eq_toInt, decide_eq_true_eq]

theorem State.isZero_iff : s.isZero rs = true ↔ (s.reg rs).toInt = 0 := by
  rw [State.isZero, beq_iff_eq, ← BitVec.toInt_inj]
  rfl

theorem State.nonnegative_iff : (!s.negative rs) = true ↔ 0 ≤ (s.reg rs).toInt := by
  rw [Bool.not_eq_true', ← Bool.not_eq_true, State.negative_iff, Int.not_lt]

theorem State.nonpositive_iff : (s.negative rs || s.isZero rs) = true ↔ (s.reg rs).toInt ≤ 0 := by
  rw [Bool.or_eq_true, State.negative_iff, State.isZero_iff, Int.le_iff_lt_or_eq]

theorem State.positive_iff : (!s.negative rs && !s.isZero rs) = true ↔ 0 < (s.reg rs).toInt := by
  rw [← Bool.not_or, Bool.not_eq_true', ← Bool.not_eq_true, State.nonpositive_iff, Int.not_le]

end Conditions

/-! ### The instructions (43) -/

/-- Settles O32: each jump is the shared one, through its link register. -/
theorem jumps : Obligations.Jumps := by
  intro s region rs rd hs
  refine ⟨?_, ?_, ?_, ?_⟩
  · obtain ⟨t, hnext, htaken, hframe, -⟩ := State.jump_outcome (i := .j region) (r := 0) hs rfl
    exact ⟨t, hnext, hframe, htaken⟩
  · obtain ⟨t, hnext, htaken, hframe, hlink⟩ := State.jump_outcome (i := .jal region) (r := 31) hs rfl
    exact ⟨t, hnext, hframe, hlink (by decide), htaken⟩
  · obtain ⟨t, hnext, htaken, hframe, -⟩ := State.jump_outcome (i := .jr rs) (r := 0) hs rfl
    exact ⟨t, hnext, hframe, htaken⟩
  · obtain ⟨t, hnext, htaken, hframe, hlink⟩ := State.jump_outcome (i := .jalr rs rd) hs rfl
    exact ⟨t, hnext, hframe, htaken, hlink⟩

/-- Settles O33: each branch is the shared one, on its condition. -/
theorem branches : Obligations.Branches := by
  rintro s rs rt off _ hs rfl
  exact ⟨State.branch_outcome (r := 0) hs beq_iff_eq, State.branch_outcome (r := 0) hs bne_iff_ne,
    State.branch_outcome (r := 0) hs (s.nonpositive_iff rs), State.branch_outcome (r := 0) hs (s.positive_iff rs),
    State.branch_outcome (r := 0) hs (s.negative_iff rs), State.branch_outcome (r := 0) hs (s.nonnegative_iff rs),
    State.branch_outcome (r := 31) hs (s.negative_iff rs), State.branch_outcome (r := 31) hs (s.nonnegative_iff rs)⟩

/-- Settles O34: each Branch Likely is the shared one, on its condition. -/
theorem likelyBranches : Obligations.LikelyBranches := by
  rintro s rs rt off _ hs rfl
  exact ⟨State.branchLikely_outcome (r := 0) _ hs beq_iff_eq,
    State.branchLikely_outcome (r := 0) _ hs bne_iff_ne,
    State.branchLikely_outcome (r := 0) _ hs (s.nonpositive_iff rs),
    State.branchLikely_outcome (r := 0) _ hs (s.positive_iff rs),
    State.branchLikely_outcome (r := 0) _ hs (s.negative_iff rs),
    State.branchLikely_outcome (r := 0) _ hs (s.nonnegative_iff rs),
    State.branchLikely_outcome (r := 31) _ hs (s.negative_iff rs),
    State.branchLikely_outcome (r := 31) _ hs (s.nonnegative_iff rs)⟩

/-! ### The stop in a delay slot (43 R401) -/

theorem State.jump_inSlot {viaRegister : Bool} (hs : s.inSlot = true) :
    s.jump target viaRegister = .refused .branchInDelaySlot := if_pos hs

theorem State.branch_inSlot {taken : Bool} (hs : s.inSlot = true) :
    s.branch taken target = .refused .branchInDelaySlot := if_pos hs

theorem State.branchLikely_inSlot {survives taken : Bool} (hs : s.inSlot = true) :
    s.branchLikely survives taken target = .refused .branchInDelaySlot := if_pos hs

theorem State.copShow_inSlot (s : State) (z : BitVec 2) (w : Word) : (s.copShow z w).inSlot = s.inSlot := by
  unfold State.copShow
  split <;> rfl

theorem State.copBranch_inSlot {z : BitVec 2} {w : Word} {want : Bool} {off : BitVec 16} (hs : s.inSlot = true)
    (hu : s.copUsable z = true) : s.copBranch z w want off = .refused .branchInDelaySlot :=
  (if_pos hu).trans (State.branch_inSlot ((s.copShow_inSlot z w).trans hs))

theorem State.copBranchLikely_inSlot {z : BitVec 2} {w : Word} {want : Bool} {off : BitVec 16} (hs : s.inSlot = true)
    (hu : s.copUsable z = true) : s.copBranchLikely z w want off = .refused .branchInDelaySlot :=
  (if_pos hu).trans (State.branchLikely_inSlot ((s.copShow_inSlot z w).trans hs))

/-- Settles O36: every transfer ends in one of the shared operations, each of which stops there. -/
theorem transfersInSlotsStop : Obligations.TransfersInSlotsStop := by
  intro s i hs hi hu
  have hlinked : ∀ r v, (s.setReg r v).inSlot = true := fun r v => (s.setReg_inSlot r v).trans hs
  cases i with
  | j _ | jr _ => exact State.jump_inSlot hs
  | jal _ | jalr _ _ => exact State.jump_inSlot (hlinked _ _)
  | beq _ _ _ | bne _ _ _ | blez _ _ | bgtz _ _ | bltz _ _ | bgez _ _ => exact State.branch_inSlot hs
  | bltzal _ _ | bgezal _ _ => exact State.branch_inSlot (hlinked _ _)
  | beql _ _ _ | bnel _ _ _ | blezl _ _ | bgtzl _ _ | bltzl _ _ | bgezl _ _ => exact State.branchLikely_inSlot hs
  | bltzall _ _ | bgezall _ _ => exact State.branchLikely_inSlot (hlinked _ _)
  | bc0f _ | bc0t _ | bc1f _ | bc1t _ | bc2f _ | bc2t _ | bc3f _ | bc3t _ =>
    exact State.copBranch_inSlot hs (hu _ rfl)
  | bc0fl _ | bc0tl _ | bc1fl _ | bc1tl _ | bc2fl _ | bc2tl _ | bc3fl _ | bc3tl _ =>
    exact State.copBranchLikely_inSlot hs (hu _ rfl)
  | _ => exact absurd hi Bool.false_ne_true

end Sys2Proof.Machine
end

section
/-! Traps, SYSCALL and BREAK (44): a trap on its condition, and what the entry of an exception writes (60 R540), for
every exception but a true trap in a delay slot. -/

namespace Sys2Proof.Machine

variable {s : State} {e : Exc}

/-! ### The conditions (44 R411 to R422) -/

section Comparisons

variable (a b : Word)

theorem ltSigned_iff : ltSigned a b = true ↔ a.toInt < b.toInt := decide_eq_true_iff

theorem ltUnsigned_iff : ltUnsigned a b = true ↔ a.toNat < b.toNat := decide_eq_true_iff

theorem not_ltSigned_iff : (!ltSigned a b) = true ↔ b.toInt ≤ a.toInt := by
  rw [Bool.not_eq_true', ← Bool.not_eq_true, ltSigned_iff, Int.not_lt]

theorem not_ltUnsigned_iff : (!ltUnsigned a b) = true ↔ b.toNat ≤ a.toNat := by
  rw [Bool.not_eq_true', ← Bool.not_eq_true, ltUnsigned_iff, Nat.not_lt]

end Comparisons

/-! ### The trap instructions (44 R410) -/

/-- The shared trap raises Tr where its test holds and goes on where it does not. -/
theorem State.trapsOn_of {i : Instr} {test : Bool} {cond : Prop} (hexec : exec i s = s.trapIf test)
    (htest : test = true ↔ cond) : s.TrapsOn i cond :=
  ⟨fun h => hexec.trans (if_pos (htest.mpr h)),
    fun h => ⟨s.advance, hexec.trans (if_neg (mt htest.mp h)), s.advance_onlyAdvances⟩⟩

/-- Settles O37: each instruction is the shared trap, on its comparison. -/
theorem traps : Obligations.Traps := by
  rintro s rs rt imm _ _ _ rfl rfl rfl
  exact ⟨State.trapsOn_of rfl (not_ltSigned_iff _ _), State.trapsOn_of rfl (not_ltUnsigned_iff _ _),
    State.trapsOn_of rfl (ltSigned_iff _ _), State.trapsOn_of rfl (ltUnsigned_iff _ _),
    State.trapsOn_of rfl beq_iff_eq, State.trapsOn_of rfl bne_iff_ne,
    State.trapsOn_of rfl (not_ltSigned_iff _ _), State.trapsOn_of rfl (not_ltUnsigned_iff _ _),
    State.trapsOn_of rfl (ltSigned_iff _ _), State.trapsOn_of rfl (ltUnsigned_iff _ _),
    State.trapsOn_of rfl beq_iff_eq, State.trapsOn_of rfl bne_iff_ne⟩

/-! ### What entry writes (60 R540) -/

/-- ExcCode is apart from the other fields of Cause (10 R52). -/
theorem State.causeOf_code (s : State) (e : Exc) (bd bt : Bool) : (s.causeOf e bd bt).extractLsb' 2 5 = e.code := by
  have hbd : ∀ b : Bool, (flag 0x80000000 b).extractLsb' 2 5 = 0#5 := by decide
  have hbt : ∀ b : Bool, (flag 0x40000000 b).extractLsb' 2 5 = 0#5 := by decide
  have hunit : ∀ z : BitVec 2, (z.zeroExtend 32 <<< 28 : Word).extractLsb' 2 5 = 0#5 := by decide
  have hkept : (s.cp0.cause &&& (0x300 : Nat)).extractLsb' 2 5 = 0#5 := by
    rw [BitVec.extractLsb'_and]
    exact BitVec.and_zero
  have hcode : ∀ k : BitVec 5, (k.zeroExtend 32 <<< 2 : Word).extractLsb' 2 5 = k := by decide
  simp only [State.causeOf, BitVec.extractLsb'_or, hbd, hbt, hunit, hkept, hcode, BitVec.zero_or]

/-- EPC, BD and BT are the usual ones but for a true trap in a delay slot (93 I21). -/
theorem State.restartInfo_usual (h : e = .tr → s.inSlot = false) :
    s.restartInfo e = (s.epcAt, s.inSlot, s.btAt) := by
  unfold State.restartInfo
  split
  · exact if_neg (Bool.eq_false_iff.mp (h rfl))
  · rfl

/-- EPC is the restart address where entry writes it. -/
theorem State.epcAt_of_writes (h : s.r3000 = true ∨ s.exl = false) :
    s.epcAt = (if s.inSlot then s.pc - 4 else s.pc) &&& 0xFFFFFFFC := by
  have hwrites : s.writesEpc = true := by rcases h with h | h <;> simp [State.writesEpc, h]
  exact if_pos hwrites

/-- No exception's record touches the data. -/
theorem State.record_keepsData (s : State) (e : Exc) : s.SameData (s.record e) := by
  cases e with
  | adel _ => exact (State.record_sameData (.inl rfl)).1
  | ades _ => exact (State.record_sameData (.inr rfl)).1
  | _ => exact ⟨rfl, rfl, rfl, rfl⟩

theorem State.takeException_sameData (s : State) (e : Exc) : s.SameData (s.takeException e) :=
  (s.leakHiLo_sameData.trans (s.leakHiLo.record_keepsData e)).trans (s.enter_sameData ..).1

theorem State.takeException_code (s : State) (e : Exc) : (s.takeException e).cp0.cause.extractLsb' 2 5 = e.code :=
  s.causeOf_code e ..

theorem State.takeException_epc (htrap : e = .tr → s.inSlot = false) (h : s.r3000 = true ∨ s.exl = false) :
    (s.takeException e).cp0.epc = (if s.inSlot then s.pc - 4 else s.pc) &&& 0xFFFFFFFC :=
  (congrArg Prod.fst (State.restartInfo_usual htrap)).trans (State.epcAt_of_writes h)

/-- With the choice of 70 R632 shut out, the instruction behind one that raises has no effect. -/
theorem State.raised_of_noLeak (h : s.env.choice.leakNext = false) : s.raised e = .next (s.takeException e) := by
  have hleak : s.leakNext = s := if_neg (Bool.eq_false_iff.mp h)
  rw [State.raised, hleak]

/-! ### SYSCALL and BREAK (44 R425, R426) -/

/-- The outcome of an instruction that always raises `e`. -/
theorem State.exception_outcome {i : Instr} (hleak : s.env.choice.leakNext = false) (hexec : exec i s = s.raised e)
    (htrap : e ≠ .tr) :
    ∃ t, exec i s = .next t ∧ t = s.takeException e ∧ t.out.event = some (.exc e) ∧
      t.cp0.cause.extractLsb' 2 5 = e.code ∧ t.gpr = s.gpr ∧ t.mem = s.mem ∧
      (s.r3000 = true ∨ s.exl = false → t.cp0.epc = (if s.inSlot then s.pc - 4 else s.pc) &&& 0xFFFFFFFC) := by
  obtain ⟨hgpr, hmem, -, -⟩ := s.takeException_sameData e
  exact ⟨_, hexec.trans (State.raised_of_noLeak hleak), rfl, rfl, s.takeException_code e, hgpr, hmem,
    State.takeException_epc fun h => absurd h htrap⟩

/-- Settles O38: both always raise, whatever the code. -/
theorem systemCallAndBreak : Obligations.SystemCallAndBreak := fun _ _ hleak =>
  ⟨State.exception_outcome hleak rfl nofun, State.exception_outcome hleak rfl nofun⟩

end Sys2Proof.Machine
end

section
/-! Coprocessor instructions (45) and the usability checks of CP0 and the caches (46, 47): what the check of a unit and
its request of an exception answer, then the outcome of each shared operation where both let the instruction go on. -/

namespace Sys2Proof.Machine

variable {s : State} {z : BitVec 2} {i : Instr} {base rt : BitVec 5} {off : BitVec 16}

/-! ### The checks (45 R441, 60 R535) -/

/-- Usability is checked first. -/
theorem State.withCop_unusable (hu : s.copUsable z = false) (x : Result) : s.withCop z x = s.raised (.cpu z) :=
  if_neg (Bool.eq_false_iff.mp hu)

/-- An attached coprocessor's request comes before what the instruction does. -/
theorem State.withCop_request (hu : s.copUsable z = true) (hf : (s.cpPresent z && s.env.pins.cpFault) = true)
    (x : Result) : s.withCop z x = s.raised .fpe :=
  (if_pos hu).trans (if_pos hf)

theorem State.copBranch_unusable {w : Word} {want : Bool} (hu : s.copUsable z = false) :
    s.copBranch z w want off = s.raised (.cpu z) := if_neg (Bool.eq_false_iff.mp hu)

theorem State.copBranchLikely_unusable {w : Word} {want : Bool} (hu : s.copUsable z = false) :
    s.copBranchLikely z w want off = s.raised (.cpu z) := if_neg (Bool.eq_false_iff.mp hu)

/-! ### The branches (45 R449 to R452) -/

theorem State.copShow_eq_withShown (s : State) (z : BitVec 2) (i : Instr) :
    s.copShow z (encode i) = s.withShown z i := rfl

theorem State.withShown_notInSlot (hs : s.inSlot = false) : (s.withShown z i).inSlot = false :=
  (s.copShow_inSlot z (encode i)).trans hs

/-- A coprocessor branch is the shared one from the state that has shown its word, on the unit's condition line. -/
theorem State.copBranch_outcome {want : Bool} (hu : s.copUsable z = true) (hs : s.inSlot = false)
    (hexec : exec i s = s.copBranch z (encode i) want off) :
    (s.withShown z i).BranchOutcome (exec i s) 0 (s.cpCond z = want) (s.branchTarget off) := by
  rw [hexec, State.copBranch, if_pos hu, State.copShow_eq_withShown]
  exact State.branch_outcome (r := 0) (State.withShown_notInSlot hs) beq_iff_eq

/-- So is a Branch Likely. -/
theorem State.copBranchLikely_outcome {want : Bool} (hu : s.copUsable z = true) (hs : s.inSlot = false)
    (hexec : exec i s = s.copBranchLikely z (encode i) want off) :
    (s.withShown z i).LikelyOutcome (exec i s) s.slotSurvives 0 (s.cpCond z = want) (s.branchTarget off) := by
  rw [hexec, State.copBranchLikely, if_pos hu, State.copShow_eq_withShown]
  exact State.branchLikely_outcome (r := 0) _ (State.withShown_notInSlot hs) beq_iff_eq

/-- Settles O35: each branch is the shared one of its unit, on its value of the condition line. -/
theorem coprocessorBranches : Obligations.CoprocessorBranches := by
  rintro s off _ rfl p hp
  simp only [List.mem_cons, List.not_mem_nil, or_false] at hp
  rcases hp with rfl | rfl | rfl | rfl
  all_goals
    refine ⟨fun hu i hi => ?_, fun hu hs _ hcond => ?_⟩
    · simp only [List.mem_cons, List.not_mem_nil, or_false] at hi
      rcases hi with rfl | rfl | rfl | rfl
      · exact State.copBranch_unusable hu
      · exact State.copBranch_unusable hu
      · exact State.copBranchLikely_unusable hu
      · exact State.copBranchLikely_unusable hu
    · subst hcond
      exact ⟨State.copBranch_outcome hu hs rfl, State.copBranch_outcome hu hs rfl,
        State.copBranchLikely_outcome hu hs rfl, State.copBranchLikely_outcome hu hs rfl⟩

/-! ### Register moves and operations (45 R444 to R448) -/

/-- MTCz and CTCz. -/
theorem State.moveToCop_outcome (hu : s.copUsable z = true) (hf : (s.cpPresent z && s.env.pins.cpFault) = false)
    (hexec : exec i s = s.moveToCop z (encode i) rt) :
    ∃ t, exec i s = .next t ∧ s.CopFrame t z i (some (s.reg rt)) ∧ ∀ k, t.reg k = s.reg k :=
  ⟨_, hexec.trans (State.withCop_usable hu hf _), rfl, fun _ => rfl⟩

/-- What an attached coprocessor drives is what the core takes. -/
theorem State.copData_attached (h : s.cpPresent z = true) : s.copData z = s.env.pins.cpData := if_pos h

/-- MFCz and CFCz. -/
theorem State.moveFromCop_outcome (hu : s.copUsable z = true) (hf : (s.cpPresent z && s.env.pins.cpFault) = false)
    (hexec : exec i s = s.moveFromCop z (encode i) rt) :
    ∃ v t, exec i s = .next t ∧ s.CopFrame t z i none ∧ s.GprsAfter t rt v ∧
      (s.cpPresent z = true → v = s.env.pins.cpData) := by
  obtain ⟨gpr, heq, hgprs⟩ := (s.copSend z (encode i) none).setReg_eq rt (s.copData z)
  have hnext := hexec.trans (State.withCop_usable hu hf _)
  rw [heq] at hnext
  exact ⟨_, _, hnext, rfl, hgprs, State.copData_attached⟩

/-- COPz. -/
theorem State.copOperation_outcome (hu : s.copUsable z = true) (hf : (s.cpPresent z && s.env.pins.cpFault) = false)
    (hexec : exec i s = s.copOperation z (encode i)) :
    ∃ t, exec i s = .next t ∧ s.CopFrame t z i none ∧ ∀ k, t.reg k = s.reg k :=
  ⟨_, hexec.trans (State.withCop_usable hu hf _), rfl, fun _ => rfl⟩

/-- Settles O51: each form is the shared one of its unit, behind the two checks. -/
theorem coprocessorMoves : Obligations.CoprocessorMoves := by
  intro s rt rd low cofun p hp hu
  simp only [List.mem_cons, List.not_mem_nil, or_false] at hp
  rcases hp with rfl | rfl | rfl
  all_goals
    refine ⟨fun hf => ⟨fun i hi => ?_, fun i hi => ?_, State.copOperation_outcome hu hf rfl⟩, fun hf i hi => ?_⟩
    all_goals simp only [List.mem_cons, List.not_mem_nil, or_false] at hi
    · rcases hi with rfl | rfl
      all_goals exact State.moveToCop_outcome hu hf rfl
    · rcases hi with rfl | rfl
      all_goals exact State.moveFromCop_outcome hu hf rfl
    · rcases hi with rfl | rfl | rfl | rfl | rfl
      all_goals exact State.withCop_request hu hf _

/-! ### LWCz and SWCz (45 R442, R443) -/

/-- LWCz once its word is read: the coprocessor receives it, and no register changes. -/
theorem State.loadCop_outcome {v : Word} {p : Word × Attr} (hu : s.copUsable z = true)
    (hf : (s.cpPresent z && s.env.pins.cpFault) = false) (hexec : exec i s = s.loadCop z (encode i) base off)
    (hload : s.load (s.ea base off) (s.ea base off) 4 4 = .ok (some v, p) s) :
    ∃ t, exec i s = .next t ∧ (∀ k, t.reg k = s.reg k) ∧ s.CopFrame t z i (some v) := by
  rw [State.loadCop, State.withCop_usable hu hf, hload, Res.ok_andThen, Res.settle_ok] at hexec
  exact ⟨_, hexec, fun _ => rfl, rfl⟩

/-- SWCz to plain memory: its store waits alone in the buffer, and holds what an attached coprocessor drives. -/
theorem State.storeCop_outcome (hu : s.copUsable z = true) (hf : (s.cpPresent z && s.env.pins.cpFault) = false)
    (hexec : exec i s = s.storeCop z (encode i) base off) (hp : s.PlainAccess (s.ea base off) (s.ea base off) 4)
    (ha : (s.ea base off).toNat % 4 = 0) (hb : s.wbuf = []) (hm : Memory.wf s.mem = true)
    (he : s.env.pins.errWrite = false) :
    ∃ v t, exec i s = .next t ∧ (s.cpPresent z = true → v = s.env.pins.cpData) ∧ (∀ k, t.reg k = s.reg k) ∧
      (s.MemoryAfter t (s.ea base off &&& 0x1FFFFFFF) fun j =>
        if j < 4 then some (byteOf v (if s.cfg.bigEndian then 3 - j else j)) else none) ∧
      { s with wbuf := t.wbuf }.CopFrame t z i none := by
  rw [State.storeCop, State.withCop_usable hu hf, State.store_plainWord _ hp ha hb, Res.ok_andThen,
    Res.settle_ok] at hexec
  have hword := storesBytes_word s.cfg.bigEndian (s.copData z) ha
  exact ⟨s.copData z, _, hexec, State.copData_attached, fun _ => rfl,
    hword.memoryAfter hm he (hp.word (by omega) rfl).wordFree rfl rfl rfl rfl, rfl⟩

/-- Settles O52: behind the two checks each form is the plain word access of its address. -/
theorem coprocessorMemory : Obligations.CoprocessorMemory := by
  rintro s base rt off _ _ b rfl rfl hbytes p hp hu
  simp only [List.mem_cons, List.not_mem_nil, or_false] at hp
  rcases hp with rfl | rfl | rfl
  all_goals
    refine ⟨fun hf => ⟨State.withCop_request hu hf _, State.withCop_request hu hf _⟩,
      fun hf ha hplain hbuf => ⟨fun hr => ?_, fun hm he => ?_⟩⟩
    · exact State.loadCop_outcome hu hf rfl (State.load_plainWord hplain ha hr hbuf hbytes)
    · exact State.storeCop_outcome hu hf rfl hplain ha hbuf hm he

/-! ### Usability (45 R441, 46 R460, 47 R480, 90 C1) -/

/-- With no distance pending the CU bits are those of Status; Kernel mode makes CP0 usable besides. -/
theorem State.copUsable_eq (h : s.recent = []) (z : BitVec 2) :
    s.copUsable z = (s.cp0.status.getLsbD (28 + z.toNat) || (z == 0 && s.kernelMode)) := by
  rw [State.copUsable, State.seen_nil h]

theorem State.copUsable_zero_iff (h : s.recent = []) :
    s.copUsable 0 = true ↔ s.kernelMode = true ∨ s.cp0.status.getLsbD 28 = true := by
  rw [State.copUsable_eq h, Bool.or_eq_true, or_comm]
  rfl

theorem State.copUsable_of_ne_zero (h : s.recent = []) (hz : z ≠ 0) :
    s.copUsable z = s.cp0.status.getLsbD (28 + z.toNat) := by
  rw [State.copUsable_eq h, beq_false_of_ne hz, Bool.false_and, Bool.or_false]

theorem State.withCp0_unusable (hu : s.copUsable 0 = false) (x : Result) : s.withCp0 x = s.raised (.cpu 0) :=
  State.withCp0_of_unusable (Bool.eq_false_iff.mp hu)

theorem State.withCache_unusable (hu : s.copUsable 0 = false) (x : Result) : s.withCache x = s.raised .ri :=
  State.withCache_of_unusable (Bool.eq_false_iff.mp hu)

/-- A TLB instruction without a usable TLB raises CpU, whether or not CP0 is usable. -/
theorem State.withTlb_disabled (ht : s.tlbEnabled = false) (x : Result) : s.withTlb x = s.raised (.cpu 0) := by
  rw [State.withTlb, if_neg (Bool.eq_false_iff.mp ht), State.withCp0, ite_self]

/-- MFC0 and MTC0 of every register but Rotate and CMask need a usable CP0. -/
theorem cp0Moves_unusable {rd : BitVec 5} (hrot : rd ≠ 23) (hmask : rd ≠ 24) (hu : s.copUsable 0 = false) :
    exec (.mfc0 rt rd) s = s.raised (.cpu 0) ∧ exec (.mtc0 rt rd) s = s.raised (.cpu 0) := by
  have hdenied : ¬(alwaysAccessible rd || s.copUsable 0) = true := by
    rw [hu, Bool.or_false, alwaysAccessible, Bool.or_eq_true, beq_iff_eq, beq_iff_eq]
    exact not_or.mpr ⟨hrot, hmask⟩
  exact ⟨if_neg hdenied, if_neg hdenied⟩

/-- Settles O50: every named form begins with the check of its unit. -/
theorem unusableCoprocessors : Obligations.UnusableCoprocessors := by
  refine ⟨fun s base rt rd off low cofun => ⟨?unit1, ?unit2, ?unit3, ?bits⟩, fun s rt rd base off => ⟨?cp0, ?tlb⟩⟩
  case unit1 | unit2 | unit3 =>
    intro hu i hi
    simp only [List.mem_cons, List.not_mem_nil, or_false] at hi
    rcases hi with rfl | rfl | rfl | rfl | rfl | rfl | rfl
    all_goals exact State.withCop_unusable hu _
  case bits => exact fun hr => ⟨State.copUsable_zero_iff hr, fun _ => State.copUsable_of_ne_zero hr⟩
  case cp0 =>
    refine fun hu => ⟨fun i hi => ?_, fun hrot hmask => cp0Moves_unusable hrot hmask hu, fun i hi => ?_⟩
    all_goals simp only [List.mem_cons, List.not_mem_nil, or_false] at hi
    · rcases hi with rfl | rfl | rfl | rfl | rfl | rfl | rfl
      all_goals exact State.withCp0_unusable hu _
    · rcases hi with rfl | rfl | rfl | rfl
      all_goals exact State.withCache_unusable hu _
  case tlb =>
    intro ht i hi
    simp only [List.mem_cons, List.not_mem_nil, or_false] at hi
    rcases hi with rfl | rfl | rfl | rfl
    all_goals exact State.withTlb_disabled ht _

end Sys2Proof.Machine
end

section
/-! The moves from and to CP0 (46 R461, R462, R470): what MFC0 finds in each register, and that MTC0 changes the register it
names, with its side effects. -/

namespace Sys2Proof.Machine

variable {s : State} {rt rd : BitVec 5} {v : Word}

/-! ### Access (46 R460) -/

/-- Rotate and CMask need no usable CP0. -/
theorem cp0Move_accessible (h : rd = 23 ∨ rd = 24 ∨ s.copUsable 0 = true) :
    (alwaysAccessible rd || s.copUsable 0) = true := by
  rcases h with rfl | rfl | hu
  · rfl
  · rfl
  · rw [hu, Bool.or_true]

/-! ### Masked words (10 R32) -/

/-- A word within a mask is not changed by it. -/
theorem Within.and_eq {mask : Word} (h : Within mask v) : v &&& mask = v := by
  have hsplit : v &&& (mask ||| ~~~mask) = v := by rw [BitVec.or_not_self, BitVec.and_allOnes]
  rwa [BitVec.and_or_distrib_left, show v &&& ~~~mask = 0#32 from h, BitVec.or_zero] at hsplit

theorem Within.merge_eq {mask : Word} (h : Within mask v) (new : Word) : Machine.merge mask v new = new &&& mask := by
  rw [Machine.merge, show v &&& ~~~mask = 0 from h]
  exact BitVec.zero_or

theorem merge_allOnes (old new : Word) : merge 0xFFFFFFFF old new = new :=
  (Within.merge_eq (mask := BitVec.allOnes 32) (by rw [Within, BitVec.not_allOnes]; exact BitVec.and_zero) new).trans
    BitVec.and_allOnes

theorem merge_zero (old new : Word) : merge 0 old new = old := by
  change (old &&& BitVec.allOnes 32) ||| (new &&& 0#32) = old
  rw [BitVec.and_allOnes, BitVec.and_zero, BitVec.or_zero]

/-! ### What MFC0 finds (46 R461, 10 R33 to R72) -/

/-- MFC0 yields what CP0Read answers. -/
theorem mfc0_yields (hacc : (alwaysAccessible rd || s.copUsable 0) = true) (hread : s.cp0Read rd = .ok v s) :
    s.Yields (.mfc0 rt rd) rt v := by
  have hexec : exec (.mfc0 rt rd) s = _ := if_pos hacc
  rw [hread] at hexec
  exact State.yields_of hexec

/-- Registers outside the MMU block that read as they are held. -/
theorem State.cp0Read_plain (s : State) (h : rd ∈ [7, 8, 9, 11, 14, 17, 18, 19, 20, 21, 23, 24, 30]) :
    s.cp0Read rd = .ok (s.cp0.field rd) s := by
  simp only [List.mem_cons, List.not_mem_nil, or_false] at h
  rcases h with rfl | rfl | rfl | rfl | rfl | rfl | rfl | rfl | rfl | rfl | rfl | rfl | rfl
  all_goals rfl

/-- Registers of the MMU block, but Random, where there is a TLB. -/
theorem State.cp0Read_mmu (h : rd ∈ [0, 2, 4, 5, 6, 10]) (htlb : s.cfg.tlbPresent = true) :
    s.cp0Read rd = .ok (s.cp0.field rd) s := by
  have hpresent : ∀ w, s.mmuReg w = w := fun _ => if_pos htlb
  simp only [List.mem_cons, List.not_mem_nil, or_false] at h
  rcases h with rfl | rfl | rfl | rfl | rfl | rfl
  all_goals exact congrArg (Res.ok · s) (hpresent _)

/-- Where nothing is defined MFC0 reads some value. -/
theorem State.cp0Read_undefined
    (h : rd ∈ [3, 22, 25, 26, 27, 28, 29, 31] ∨ isMmuReg rd = true ∧ s.cfg.tlbPresent = false) :
    ∃ v, s.cp0Read rd = .ok v s := by
  rcases h with h | ⟨hmmu, htlb⟩
  · simp only [List.mem_cons, List.not_mem_nil, or_false] at h
    rcases h with rfl | rfl | rfl | rfl | rfl | rfl | rfl | rfl
    all_goals exact ⟨_, rfl⟩
  · simp only [isMmuReg, Bool.or_eq_true, beq_iff_eq, or_assoc] at hmmu
    rcases hmmu with rfl | rfl | rfl | rfl | rfl | rfl | rfl
    · exact ⟨_, rfl⟩
    · exact ⟨_, if_neg (Bool.eq_false_iff.mp htlb)⟩
    all_goals exact ⟨_, rfl⟩

/-- A five-bit register is its low five bits. -/
theorem Within.toNat_low (h : Within 0x1F v) : (v.extractLsb' 0 5).toNat = v.toNat := by
  have hlt : v.toNat < 2 ^ 5 := by
    rw [← h.and_eq, BitVec.toNat_and]
    exact Nat.and_lt_two_pow _ (by decide)
  rw [BitVec.extractLsb'_toNat, Nat.shiftRight_zero, Nat.mod_eq_of_lt hlt]

theorem Within.zeroExtend_low (h : Within 0x1F v) : (v.extractLsb' 0 5).zeroExtend 32 = v := by
  refine BitVec.eq_of_toNat_eq ?_
  rw [BitVec.toNat_setWidth, h.toNat_low, Nat.mod_eq_of_lt v.isLt]

/-- Random reads as it is held while it lies between Wired and the last entry. -/
theorem State.cp0Read_random (htlb : s.cfg.tlbPresent = true) (hinv : s.cp0.Inv)
    (hwired : s.cp0.wired.toNat ≤ s.cp0.random.toNat) (hlast : s.cp0.random.toNat ≤ s.cfg.tlbLast.toNat) :
    s.cp0Read 1 = .ok s.cp0.random s := by
  have hindex : s.randomIndex = some (s.cp0.random.extractLsb' 0 5) := by
    rw [State.randomIndex, hinv.random.toNat_low, hinv.wired.toNat_low, decide_eq_true hwired, decide_eq_true hlast]
    rfl
  have hread : s.cp0Read 1 = _ := if_pos htlb
  rw [hindex] at hread
  exact hread.trans (congrArg (Res.ok · s) hinv.random.zeroExtend_low)

/-- The live bits of Cause as one field (10 R53). -/
theorem State.causeRead_eq (s : State) :
    s.causeRead = s.cp0.cause ||| ((0 : BitVec 16) ++ s.ip.extractLsb' 2 6 ++ (0 : BitVec 10)) := by
  have hfield : ∀ x : BitVec 6, (x.zeroExtend 32 <<< 10 : Word) = (0 : BitVec 16) ++ x ++ (0 : BitVec 10) := by decide
  rw [State.causeRead, hfield]

/-- Settles O54: MFC0 yields what CP0Read answers, register by register. -/
theorem moveFromCp0 : Obligations.MoveFromCp0 := by
  intro s rt rd h
  have hacc := cp0Move_accessible h
  refine ⟨fun hrd => mfc0_yields hacc (s.cp0Read_plain hrd), fun hrd htlb => mfc0_yields hacc (State.cp0Read_mmu hrd htlb),
    ?random, ?status, ?cause, ?prid, ?ccc, fun hrd => ?_⟩
  case random =>
    rintro rfl htlb hinv hwired hlast
    exact mfc0_yields hacc (State.cp0Read_random htlb hinv hwired hlast)
  case cause =>
    rintro rfl
    exact mfc0_yields hacc (congrArg (Res.ok · s) s.causeRead_eq)
  case status | prid | ccc =>
    rintro rfl
    exact mfc0_yields hacc rfl
  · obtain ⟨v, hread⟩ := State.cp0Read_undefined hrd
    exact ⟨v, mfc0_yields hacc hread⟩

/-! ### The CP0 registers by number (10 R30) -/

/-- The numbers of the registers that are held. -/
def cp0Numbers : List (BitVec 5) :=
  [0, 1, 2, 4, 5, 6, 7, 8, 9, 10, 11, 12, 13, 14, 16, 17, 18, 19, 20, 21, 23, 24, 30]

/-- The registers that hold `f`. -/
def Cp0.ofField (f : BitVec 5 → Word) : Cp0 where
  index := f 0
  random := f 1
  entryLo := f 2
  context := f 4
  pageMask := f 5
  wired := f 6
  dcs := f 7
  badVAddr := f 8
  count := f 9
  entryHi := f 10
  compare := f 11
  status := f 12
  cause := f 13
  epc := f 14
  ccc := f 16
  llAddr := f 17
  bpc := f 18
  bda := f 19
  bpcm := f 20
  bdam := f 21
  rotate := f 23
  cmask := f 24
  errorEpc := f 30

theorem Cp0.field_of_not_mem (c : Cp0) {n : BitVec 5} (hn : n ∉ cp0Numbers) : c.field n = 0 := by
  unfold Cp0.field
  split
  case h_24 => rfl
  all_goals exact absurd (by decide) hn

theorem Cp0.field_ofField {f : BitVec 5 → Word} (hf : ∀ n, n ∉ cp0Numbers → f n = 0) (n : BitVec 5) :
    (Cp0.ofField f).field n = f n := by
  by_cases hn : n ∈ cp0Numbers
  · simp only [cp0Numbers, List.mem_cons, List.not_mem_nil, or_false] at hn
    rcases hn with rfl | rfl | rfl | rfl | rfl | rfl | rfl | rfl | rfl | rfl | rfl | rfl | rfl | rfl | rfl | rfl | rfl |
      rfl | rfl | rfl | rfl | rfl | rfl
    all_goals rfl
  · rw [Cp0.field_of_not_mem _ hn, hf n hn]

/-- Register `n` replaced. -/
def Cp0.setField (c : Cp0) (n : BitVec 5) (w : Word) : Cp0 := .ofField (Function.update c.field n w)

theorem Cp0.setField_self (c : Cp0) (n : BitVec 5) : c.setField n (c.field n) = c :=
  congrArg Cp0.ofField (Function.update_eq_self n c.field)

theorem Cp0.field_setField (c : Cp0) {n : BitVec 5} {w : Word} (hw : n ∉ cp0Numbers → w = 0) (k : BitVec 5) :
    (c.setField n w).field k = if k = n then w else c.field k := by
  refine (Cp0.field_ofField (fun m hm => ?_) k).trans (Function.update_apply ..)
  rw [Function.update_apply]
  split
  case isTrue h => exact hw (h ▸ hm)
  case isFalse => exact c.field_of_not_mem hm

/-! ### The register MTC0 names (46 R470) -/

/-- The numbers MTC0 writes: Random, BadVAddr, PRId and the undefined ones take no write (92 D17, D18). -/
def mtc0Numbers : List (BitVec 5) := [0, 2, 4, 5, 6, 7, 9, 10, 11, 12, 13, 14, 16, 17, 18, 19, 20, 21, 23, 24, 30]

theorem mtc0Numbers_subset : mtc0Numbers ⊆ cp0Numbers := by decide

theorem mtc0Mask_unwritable (r3000 : Bool) (hrd : rd ∉ mtc0Numbers) : mtc0Mask r3000 rd = 0 := by
  revert r3000 rd
  decide

/-- What MTC0 leaves in the register it names. -/
def State.mtc0Value (s : State) (rd : BitVec 5) (v : Word) : Word :=
  merge (mtc0Mask s.r3000 rd) (s.cp0.field rd) v

theorem State.mtc0Value_unwritable (hrd : rd ∉ mtc0Numbers) : s.mtc0Value rd v = s.cp0.field rd := by
  rw [State.mtc0Value, mtc0Mask_unwritable _ hrd, merge_zero]

theorem State.mtc0Value_of_not_mem (hrd : rd ∉ cp0Numbers) : s.mtc0Value rd v = 0 :=
  (State.mtc0Value_unwritable (mt (@mtc0Numbers_subset rd) hrd)).trans (s.cp0.field_of_not_mem hrd)

/-- The CP0 registers after MTC0; a write to Wired moves Random (10 R39). -/
def State.cp0After (s : State) (rd : BitVec 5) (v : Word) : Cp0 :=
  let c := s.cp0.setField rd (s.mtc0Value rd v)
  if rd = 6 then c.setField 1 (s.cfg.tlbLast.zeroExtend 32) else c

theorem State.field_cp0After (s : State) (rd : BitVec 5) (v : Word) (n : BitVec 5) :
    (s.cp0After rd v).field n = if n = 1 ∧ rd = 6 then s.cfg.tlbLast.zeroExtend 32
      else if n = rd then s.mtc0Value n v else s.cp0.field n := by
  have hset : ∀ k, (s.cp0.setField rd (s.mtc0Value rd v)).field k =
      if k = rd then s.mtc0Value k v else s.cp0.field k := fun k => by
    rw [Cp0.field_setField _ State.mtc0Value_of_not_mem]
    split
    case isTrue h => rw [h]
    case isFalse => rfl
  unfold State.cp0After
  by_cases hrd : rd = 6
  · rw [if_pos hrd, Cp0.field_setField _ fun h => absurd (by decide) h, hset]
    simp only [hrd, and_true]
  · rw [if_neg hrd, hset, if_neg (mt And.right hrd)]

/-! ### What MTC0 changes (46 R462, R470) -/

theorem State.setStatus_eq (s : State) (v : Word) : ∃ recent, s.setStatus v =
    { s with cp0 := { s.cp0 with status := merge s.statusMask s.cp0.status v }, recent := recent } := by
  unfold State.setStatus
  dsimp only
  split
  · exact ⟨_, rfl⟩
  · exact ⟨_, rfl⟩

theorem State.setCcc_eq (s : State) (v : Word) : ∃ recent, s.setCcc v =
    { s with cp0 := { s.cp0 with ccc := v &&& 0x17FFFFFF }, recent := recent } := by
  unfold State.setCcc
  dsimp only
  split
  · exact ⟨_, rfl⟩
  · exact ⟨_, rfl⟩

/-- `t` is `s` after an MTC0 of `v` to register `rd`: the registers, the timer's pending bit, the instruction TLB and the
pending distances are all that changes. -/
def State.Mtc0Done (s : State) (rd : BitVec 5) (v : Word) (t : State) : Prop :=
  ∃ recent, t = { s with
    cp0 := s.cp0After rd v, timerPending := if rd = 11 then false else s.timerPending
    itlb := if rd = 10 then [] else s.itlb, recent := recent }

/-- Wired takes its value and Random its upper bound (10 R39). -/
theorem State.setWired_done (hinv : s.cp0.Inv) (htlb : s.cfg.tlbPresent = true) :
    s.Mtc0Done 6 v (s.cp0Write 6 v) := by
  have hval : s.mtc0Value 6 v = v &&& 0x1F := hinv.wired.merge_eq v
  refine ⟨s.recent, ?_⟩
  rw [State.cp0After, if_pos rfl, hval]
  exact if_pos htlb

/-- For every register but Wired, the value it takes and the rest of the state settle the matter. -/
theorem State.mtc0Done_of {w : Word} {t : State} (hrd : rd ≠ 6) (hval : s.mtc0Value rd v = w)
    (ht : ∃ recent, t = { s with
      cp0 := s.cp0.setField rd w, timerPending := if rd = 11 then false else s.timerPending
      itlb := if rd = 10 then [] else s.itlb, recent := recent }) : s.Mtc0Done rd v t := by
  obtain ⟨recent, ht⟩ := ht
  exact ⟨recent, by rw [ht, State.cp0After, if_neg hrd, hval]⟩

theorem State.cp0Write_unwritable (s : State) (v : Word) (hrd : rd ∉ mtc0Numbers) : s.cp0Write rd v = s := by
  unfold State.cp0Write
  split
  case h_22 => rfl
  all_goals exact absurd (by decide) hrd

/-- MTC0 outside the MMU block, and inside it where there is a TLB. -/
theorem State.cp0Write_done (hinv : s.cp0.Inv) (hreg : isMmuReg rd = true → s.cfg.tlbPresent = true) :
    s.Mtc0Done rd v (s.cp0Write rd v) := by
  by_cases hrd : rd ∈ mtc0Numbers
  · simp only [mtc0Numbers, List.mem_cons, List.not_mem_nil, or_false] at hrd
    rcases hrd with rfl | rfl | rfl | rfl | rfl | rfl | rfl | rfl | rfl | rfl | rfl | rfl | rfl | rfl | rfl | rfl | rfl |
      rfl | rfl | rfl | rfl
    · exact State.mtc0Done_of (by decide) (hinv.index.merge_eq v) ⟨_, if_pos (hreg rfl)⟩
    · exact State.mtc0Done_of (by decide) (hinv.entryLo.merge_eq v) ⟨_, if_pos (hreg rfl)⟩
    · exact State.mtc0Done_of (w := merge 0xFFC00000 s.cp0.context v) (by decide) rfl ⟨_, if_pos (hreg rfl)⟩
    · exact State.mtc0Done_of (by decide) (hinv.pageMask.merge_eq v) ⟨_, if_pos (hreg rfl)⟩
    · exact s.setWired_done hinv (hreg rfl)
    · exact State.mtc0Done_of (by decide) (hinv.dcs.merge_eq v) ⟨_, rfl⟩
    · exact State.mtc0Done_of (by decide) (merge_allOnes s.cp0.count v) ⟨_, rfl⟩
    · exact State.mtc0Done_of (by decide) (hinv.entryHi.merge_eq v) ⟨_, if_pos (hreg rfl)⟩
    · exact State.mtc0Done_of (by decide) (merge_allOnes s.cp0.compare v) ⟨_, rfl⟩
    · exact State.mtc0Done_of (by decide) rfl (s.setStatus_eq v)
    · exact State.mtc0Done_of (w := merge 0x300 s.cp0.cause v) (by decide) rfl ⟨_, rfl⟩
    · exact State.mtc0Done_of (by decide) (hinv.epc.merge_eq v) ⟨_, rfl⟩
    · exact State.mtc0Done_of (by decide) (hinv.ccc.merge_eq v) (s.setCcc_eq v)
    · exact State.mtc0Done_of (by decide) (hinv.llAddr.merge_eq v) ⟨_, rfl⟩
    · exact State.mtc0Done_of (by decide) (hinv.bpc.merge_eq v) ⟨_, rfl⟩
    · exact State.mtc0Done_of (by decide) (merge_allOnes s.cp0.bda v) ⟨_, rfl⟩
    · exact State.mtc0Done_of (by decide) (hinv.bpcm.merge_eq v) ⟨_, rfl⟩
    · exact State.mtc0Done_of (by decide) (merge_allOnes s.cp0.bdam v) ⟨_, rfl⟩
    · exact State.mtc0Done_of (by decide) (hinv.rotate.merge_eq v) ⟨_, rfl⟩
    · exact State.mtc0Done_of (by decide) (hinv.cmask.merge_eq v) ⟨_, rfl⟩
    · exact State.mtc0Done_of (by decide) (hinv.errorEpc.merge_eq v) ⟨_, rfl⟩
  · have hne : ∀ n ∈ mtc0Numbers, rd ≠ n := fun n hn h => hrd (h ▸ hn)
    refine State.mtc0Done_of (hne 6 (by decide)) (State.mtc0Value_unwritable hrd) ⟨s.recent, ?_⟩
    rw [s.cp0Write_unwritable v hrd, s.cp0.setField_self, if_neg (hne 11 (by decide)), if_neg (hne 10 (by decide))]

/-- MTC0 to the MMU block where there is no TLB. -/
theorem State.cp0Write_absent (hrd : isMmuReg rd = true) (htlb : s.cfg.tlbPresent = false) : s.cp0Write rd v = s := by
  simp only [isMmuReg, Bool.or_eq_true, beq_iff_eq, or_assoc] at hrd
  rcases hrd with rfl | rfl | rfl | rfl | rfl | rfl | rfl
  case inr.inl => rfl
  all_goals exact if_neg (Bool.eq_false_iff.mp htlb)

/-! ### The instruction (46 R462) -/

theorem mtc0_refused {r : Refusal} (hacc : (alwaysAccessible rd || s.copUsable 0) = true)
    (hstop : s.mtc0Stop rd (s.reg rt) = some r) : exec (.mtc0 rt rd) s = .refused r := by
  have hexec : exec (.mtc0 rt rd) s = _ := if_pos hacc
  rwa [hstop] at hexec

theorem mtc0_next (hacc : (alwaysAccessible rd || s.copUsable 0) = true) (hstop : s.mtc0Stop rd (s.reg rt) = none) :
    exec (.mtc0 rt rd) s = .next (s.cp0Write rd (s.reg rt)).advance := by
  have hexec : exec (.mtc0 rt rd) s = _ := if_pos hacc
  rwa [hstop] at hexec

/-- Settles O53: the two stops of CCC, a write without effect, and a write with its side effects. -/
theorem moveToCp0 : Obligations.MoveToCp0 := by
  rintro s rt rd _ hinv rfl h
  have hacc := cp0Move_accessible h
  obtain ⟨hcleared, hsizes, hgoes⟩ := s.mtc0Stop_of rd (s.reg rt)
  refine ⟨fun hrd hcmp => mtc0_refused hacc (hcleared hrd hcmp),
    fun hrd hcmp hsize => mtc0_refused hacc (hsizes hrd hcmp hsize), fun hccc => ⟨_, mtc0_next hacc (hgoes hccc), ?_⟩⟩
  by_cases habsent : isMmuReg rd = true ∧ s.cfg.tlbPresent = false
  · obtain ⟨hmmu, htlb⟩ := habsent
    have htimer : (rd != 11) = true := bne_iff_ne.mpr fun heq => by rw [heq] at hmmu; cases hmmu
    rw [State.cp0Write_absent hmmu htlb, htimer, Bool.and_true, htlb]
    exact ⟨fun n => (if_pos ⟨hmmu, rfl⟩).symm, rfl, (if_neg fun hhi => Bool.false_ne_true hhi.2).symm, rfl⟩
  · have hpresent : isMmuReg rd = true → s.cfg.tlbPresent = true := fun hmmu =>
      Bool.not_eq_false _ ▸ fun htlb => habsent ⟨hmmu, htlb⟩
    obtain ⟨recent, hwrite⟩ := State.cp0Write_done (v := s.reg rt) hinv hpresent
    rw [hwrite]
    refine ⟨fun n => (s.field_cp0After rd (s.reg rt) n).trans (if_neg habsent).symm, ?timer, ?itlb, rfl⟩
    case timer =>
      change (if rd = 11 then false else s.timerPending) = _
      by_cases hrd : rd = 11
      · rw [if_pos hrd, hrd, bne_self_eq_false, Bool.and_false]
      · rw [if_neg hrd, bne_iff_ne.mpr hrd, Bool.and_true]
    case itlb =>
      change (if rd = 10 then [] else s.itlb) = _
      by_cases hrd : rd = 10
      · rw [if_pos hrd, if_pos ⟨hrd, hpresent (hrd ▸ rfl)⟩]
      · rw [if_neg hrd, if_neg (mt And.left hrd)]

end Sys2Proof.Machine
end

section
/-! The TLB instructions (46 R463 to R466): an entry as the three registers hold it, then each instruction behind its check
of the TLB, outside every hazard distance. -/

namespace Sys2Proof.Machine

variable {s : State} {i : BitVec 5}

/-! ### The fields of an entry (10 R80) -/

section Fields

variable (e : TlbEntry)

theorem TlbEntry.lo_isGlobal : e.lo.getLsbD 0 = e.isGlobal := BitVec.getLsbD_concat_zero

theorem TlbEntry.lo_valid : e.lo.getLsbD 1 = e.valid := BitVec.getLsbD_concat_succ.trans BitVec.getLsbD_concat_zero

theorem TlbEntry.lo_dirty : e.lo.getLsbD 2 = e.dirty :=
  BitVec.getLsbD_concat_succ.trans <| BitVec.getLsbD_concat_succ.trans BitVec.getLsbD_concat_zero

/-- Above the three flags EntryLo holds the frame number and C. -/
theorem TlbEntry.getLsbD_lo (k : Nat) : e.lo.getLsbD (k + 3) = ((0 : BitVec 6) ++ e.pfn ++ e.alg).getLsbD k :=
  BitVec.getLsbD_concat_succ.trans <| BitVec.getLsbD_concat_succ.trans BitVec.getLsbD_concat_succ

theorem TlbEntry.lo_alg : e.lo.extractLsb' 3 3 = e.alg := by
  refine BitVec.eq_of_getLsbD_eq fun k hk => ?_
  rw [BitVec.getLsbD_extractLsb', Nat.add_comm, e.getLsbD_lo, BitVec.getLsbD_append]
  simp [hk]

theorem TlbEntry.lo_pfn : e.lo.extractLsb' 6 26 = (0 : BitVec 6) ++ e.pfn := by
  refine BitVec.eq_of_getLsbD_eq fun k hk => ?_
  rw [BitVec.getLsbD_extractLsb', show 6 + k = k + 3 + 3 by omega, e.getLsbD_lo, BitVec.getLsbD_append]
  simp [hk]

end Fields

/-! ### The checks and the registers with no distance pending (46 R463, R464) -/

theorem State.withTlb_enabled (hu : s.copUsable 0 = true) (ht : s.tlbEnabled = true) (x : Result) : s.withTlb x = x :=
  (State.withCp0_of_usable hu).trans (if_pos ht)

theorem State.tlbIndex_nil (h : s.recent = []) : s.tlbIndex = s.cp0.index.extractLsb' 0 5 := by
  rw [State.tlbIndex, State.seen_nil h]

theorem State.withIndex_exists (h : s.recent = []) {f : BitVec 5 → Result}
    (hlast : (s.cp0.index.extractLsb' 0 5).toNat ≤ s.cfg.tlbLast.toNat) :
    s.withIndex f = f (s.cp0.index.extractLsb' 0 5) := by
  rw [State.withIndex, State.tlbIndex_nil h, if_pos hlast]

theorem State.withIndex_beyond (h : s.recent = []) {f : BitVec 5 → Result}
    (hlast : s.cp0.index.extractLsb' 0 5 > s.cfg.tlbLast) : s.withIndex f = .refused .tlbIndexRange := by
  rw [State.withIndex, State.tlbIndex_nil h, if_neg (Nat.not_le.mpr hlast)]

/-! ### Writing and reading an entry (46 R463 to R465) -/

/-- The write takes the registers as they are and changes no other entry. -/
theorem State.writeTlb_writesEntry (h : s.recent = []) (i : BitVec 5) : s.WritesEntry (s.advance.writeTlb i) i := by
  refine ⟨fun j => ?_, rfl⟩
  change (s.tlb.set i.toNat s.entryOfRegs i.isLt)[j.val] = _
  rw [Vector.getElem_set, State.entryOfRegs, State.seen_nil h, State.seen_nil h, State.seen_nil h]
  simp only [eq_comm]

/-- Settles O55: behind the checks, one entry is written from the registers or read into them. -/
theorem tlbReadsAndWrites : Obligations.TlbReadsAndWrites := by
  intro s hu ht hrecent
  have hwi : exec .tlbwi s = _ := State.withTlb_enabled hu ht _
  have hr : exec .tlbr s = _ := State.withTlb_enabled hu ht _
  have hwr : exec .tlbwr s = _ := State.withTlb_enabled hu ht _
  refine ⟨?_, fun i hi => ?_, fun hbeyond => ⟨?_, ?_⟩, fun hnone => ?_⟩
  · rintro i rfl hlast
    rw [State.withIndex_exists hrecent hlast] at hwi hr
    refine ⟨⟨_, hwi, State.writeTlb_writesEntry hrecent _⟩, _, hr, rfl, rfl, rfl, TlbEntry.lo_pfn _, TlbEntry.lo_alg _,
      TlbEntry.lo_dirty _, TlbEntry.lo_valid _, TlbEntry.lo_isGlobal _, ?_⟩
    rw [State.readEntry, State.endHazards_nil hrecent]
    rfl
  · rw [hi] at hwr
    exact ⟨_, hwr, State.writeTlb_writesEntry hrecent i⟩
  · exact hwi.trans (State.withIndex_beyond hrecent hbeyond)
  · exact hr.trans (State.withIndex_beyond hrecent hbeyond)
  · rwa [hnone] at hwr

/-! ### The probe (46 R466) -/

theorem State.asid_nil (h : s.recent = []) : s.asid = s.cp0.entryHi.extractLsb' 0 8 := by
  rw [State.asid, State.seen_nil h]

theorem State.probeAddress_nil (h : s.recent = []) : s.probeAddress = s.cp0.entryHi &&& 0xFFFFF000 := by
  rw [State.probeAddress, State.seen_nil h]

theorem State.setIndex_onlyIndex (h : s.recent = []) (v : Word) : s.OnlyIndex (s.setIndex v).advance := by
  rw [State.setIndex, State.endHazards_nil h]
  rfl

theorem State.probeMiss_failed (s : State) : s.probeMiss.getLsbD 31 = true := by
  rw [State.probeMiss, BitVec.getLsbD_or]
  rfl

/-- Settles O56: the probe finds the entries that match, of which there is one or none. -/
theorem tlbProbe : Obligations.TlbProbe := by
  intro s hu ht hrecent
  have hp : exec .tlbp s = _ := State.withTlb_enabled hu ht _
  rw [← State.asid_nil hrecent, ← State.probeAddress_nil hrecent]
  refine ⟨fun i hlast hmatch hothers => ?_, fun hnone => ?_⟩
  · rw [State.tlbHits_eq_singleton ⟨hlast, hmatch⟩ fun j hj => State.not_matches_of (hothers j hj)] at hp
    exact ⟨_, hp, rfl, State.setIndex_onlyIndex hrecent _⟩
  · rw [State.tlbHits_eq_nil fun j => State.not_matches_of (hnone j)] at hp
    exact ⟨_, hp, s.probeMiss_failed, State.setIndex_onlyIndex hrecent _⟩

end Sys2Proof.Machine
end

section
/-! Return from an exception and the wait state (46 R467 to R469, 60 R590): what ERET and RFE leave of Status, and what
the boundary and the bus leave alone while the machine waits. -/

namespace Sys2Proof.Machine

variable {s : State}

/-! ### Status after a return (46 R467, R468) -/

/-- Clearing one bit leaves the others. -/
theorem getLsbD_and_not_twoPow (w : Word) (j k : Nat) :
    (w &&& ~~~BitVec.twoPow 32 j).getLsbD k = (w.getLsbD k && decide (k ≠ j)) := by
  rw [BitVec.getLsbD_and, BitVec.getLsbD_not, BitVec.getLsbD_twoPow]
  by_cases hk : k < 32
  · by_cases hj : k = j
    · simp [← hj, hk]
    · simp [hk, hj, Ne.symm hj]
  · simp [BitVec.getLsbD_of_ge w k (by omega)]

theorem State.leaveLevel_status (s : State) :
    s.leaveLevel.cp0.status = s.cp0.status &&& ~~~BitVec.twoPow 32 (if s.erl then 2 else 1) := by
  unfold State.leaveLevel
  cases s.erl <;> rfl

/-- The level ERET leaves is the only bit of Status that changes, and it is clear afterwards. -/
theorem State.returnFromException_status (s : State) (k : Nat) :
    s.returnFromException.cp0.status.getLsbD k =
      (s.cp0.status.getLsbD k && decide (k ≠ if s.erl then 2 else 1)) := by
  change s.leaveLevel.cp0.status.getLsbD k = _
  rw [State.leaveLevel_status, getLsbD_and_not_twoPow]

theorem State.eretTarget_nil (h : s.recent = []) : s.eretTarget = if s.erl then s.cp0.errorEpc else s.cp0.epc := by
  rw [State.eretTarget, State.seen_nil h, State.seen_nil h]

/-- RFE moves the KU/IE stack down by a pair; the oldest pair stays (10 R46). -/
theorem State.popMode_status (s : State) :
    s.popMode.cp0.status = s.cp0.status.extractLsb' 4 28 ++ s.cp0.status.extractLsb' 2 4 := by
  have hmask : ∀ k < 32, (0xF : Word).getLsbD k = decide (k < 4) := by decide
  refine BitVec.eq_of_getLsbD_eq fun k hk => ?_
  change (merge 0xF s.cp0.status (s.cp0.status >>> 2)).getLsbD k = _
  rw [getLsbD_merge, hmask k hk, BitVec.getLsbD_append]
  by_cases hlow : k < 4
  · simp [hlow]
  · simp [hlow, show k - 4 < 28 by omega, show 4 + (k - 4) = k by omega]

/-! ### ERET and RFE -/

/-- Settles O17: the mode, then the slot; what remains is the return. -/
theorem eretReturns : Obligations.EretReturns := by
  intro s hu
  have hexec : exec .eret s = s.withCp0 _ := rfl
  rw [State.withCp0_of_usable hu] at hexec
  refine ⟨fun hmode => hexec.trans (if_pos hmode), fun hmode hslot => ?_, fun hmode hslot hrecent => ?_⟩
  · exact hexec.trans ((if_neg (Bool.eq_false_iff.mp hmode)).trans (if_pos hslot))
  · have hnext : exec .eret s = .next s.returnFromException :=
      hexec.trans ((if_neg (Bool.eq_false_iff.mp hmode)).trans (if_neg (Bool.eq_false_iff.mp hslot)))
    refine ⟨_, hnext, State.eretTarget_nil hrecent, rfl, rfl, rfl, fun herl => ?_, fun herl => ?_, rfl⟩
    · exact ⟨(s.returnFromException_status 2).trans (by simp [herl]),
        fun k hk => (s.returnFromException_status k).trans (by simp [herl, hk])⟩
    · exact ⟨(s.returnFromException_status 1).trans (by simp [herl]),
        fun k hk => (s.returnFromException_status k).trans (by simp [herl, hk])⟩

/-- Settles O18: the mode, then the slot; what remains pops the stack and goes on. -/
theorem rfeReturns : Obligations.RfeReturns := by
  intro s hu
  have hexec : exec .rfe s = s.withCp0 _ := rfl
  rw [State.withCp0_of_usable hu] at hexec
  refine ⟨fun hmode => hexec.trans (if_pos (by rw [hmode]; rfl)), fun hmode hslot hjr => ?_, fun hmode hslot => ?_⟩
  · exact hexec.trans ((if_neg (by rw [hmode]; decide)).trans (if_pos (by rw [hslot, hjr]; rfl)))
  · have hgoes : ¬(s.inSlot && !s.slotOfJr) = true := by
      cases hs : s.inSlot with
      | false => simp
      | true => simp [hslot hs]
    exact ⟨_, hexec.trans ((if_neg (by rw [hmode]; decide)).trans (if_neg hgoes)), s.popMode_status, rfl, rfl, rfl, rfl,
      rfl⟩

/-! ### What the boundary and the bus leave alone (10 R91, 20 R180) -/

/-- Where control stands and the general registers stay. -/
def State.SameFlow (s t : State) : Prop := t.pc = s.pc ∧ t.npc = s.npc ∧ t.gpr = s.gpr

theorem State.SameFlow.trans {t u : State} (h : s.SameFlow t) (h' : t.SameFlow u) : s.SameFlow u := by
  obtain ⟨hpc, hnpc, hgpr⟩ := h
  obtain ⟨hpc', hnpc', hgpr'⟩ := h'
  exact ⟨hpc'.trans hpc, hnpc'.trans hnpc, hgpr'.trans hgpr⟩

theorem State.runRandom_sameFlow (s : State) : s.SameFlow s.runRandom := by
  unfold State.runRandom
  split <;> exact ⟨rfl, rfl, rfl⟩

theorem State.runSnoops_sameFlow (s : State) : s.SameFlow s.runSnoops := by
  unfold State.runSnoops
  generalize s.env.pins.snoops = snoops
  induction snoops generalizing s with
  | nil => exact ⟨rfl, rfl, rfl⟩
  | cons snoop rest ih => exact State.SameFlow.trans (t := s.snoop snoop) ⟨rfl, rfl, rfl⟩ (ih _)

theorem State.runUart_sameFlow (s : State) : s.SameFlow s.runUart := by
  unfold State.runUart
  repeat' split
  all_goals exact ⟨rfl, rfl, rfl⟩

theorem State.externalWrites_sameFlow (s : State) : s.SameFlow s.externalWrites := ⟨rfl, rfl, rfl⟩

theorem State.takeEnv_runTimer_sameFlow (s : State) : s.SameFlow s.takeEnv.runTimer := ⟨rfl, rfl, rfl⟩

theorem State.latchEvents_sameFlow (s : State) : s.SameFlow s.latchNmi.latchBusError := ⟨rfl, rfl, rfl⟩

/-- Sampling the inputs executes nothing. -/
theorem State.sample_sameFlow (s : State) : s.SameFlow s.sample :=
  s.takeEnv_runTimer_sameFlow.trans <| (State.runRandom_sameFlow _).trans <| (State.externalWrites_sameFlow _).trans <|
    (State.runSnoops_sameFlow _).trans <| (State.runUart_sameFlow _).trans <| State.latchEvents_sameFlow _

/-- A write of the buffer, however it ends, changes memory, the ICEport, the answers left and the latched error. -/
theorem State.busWrite_eq (s : State) (e : WriteEntry) : ∃ mem uart out env err, s.busWrite e =
    { s with mem := mem, uart := uart, out := out, env := env, busErrPending := err } := by
  have hanswer : ∃ env, s.answerWrite = { s with env := env } := by
    unfold State.answerWrite
    split
    · exact ⟨_, rfl⟩
    · exact ⟨s.env, rfl⟩
  obtain ⟨env, henv⟩ := hanswer
  obtain ⟨mem, uart, out, hwrite⟩ := s.answerWrite.physWrite_eq e
  unfold State.busWrite State.endWrite
  dsimp only
  split
  · rw [hwrite, henv]
    exact ⟨_, _, _, _, _, rfl⟩
  · rw [henv]
    exact ⟨_, _, _, _, _, rfl⟩

/-- So does any number of them, besides emptying the buffer. -/
theorem State.drain_eq (s : State) (n : Nat) : ∃ wbuf mem uart out env err, s.drain n =
    { s with wbuf := wbuf, mem := mem, uart := uart, out := out, env := env, busErrPending := err } := by
  induction n generalizing s with
  | zero => exact ⟨_, _, _, _, _, _, rfl⟩
  | succ n ih =>
    unfold State.drain
    split
    · exact ⟨_, _, _, _, _, _, rfl⟩
    · rename_i e es _
      split
      · exact ⟨_, _, _, _, _, _, rfl⟩
      · obtain ⟨mem, uart, out, env, err, hwrite⟩ := State.busWrite_eq { s with wbuf := es } e
        obtain ⟨wbuf, mem', uart', out', env', err', hrest⟩ := ih (State.busWrite { s with wbuf := es } e)
        rw [hrest, hwrite]
        exact ⟨_, _, _, _, _, _, rfl⟩

/-- The end of a step executes nothing and ends no wait. -/
theorem State.finish_keeps (s : State) :
    s.SameFlow s.finish ∧ s.finish.waiting = s.waiting ∧ s.finish.waitSlip = s.waitSlip ∧ s.finish.cp0 = s.cp0 := by
  obtain ⟨wbuf, mem, uart, out, env, err, hdrain⟩ := s.drain_eq s.env.choice.drain
  unfold State.finish
  rw [hdrain]
  exact ⟨⟨rfl, rfl, rfl⟩, rfl, rfl, rfl⟩

/-! ### WAITI and the wait state (46 R469, 60 R590) -/

theorem State.staysWaiting_of (hwait : s.waiting = true) (hslip : s.waitSlip = 0) (hint : s.intDue = false)
    (hevi : s.eviDue = false) : s.staysWaiting = true := by
  simp [State.staysWaiting, hwait, hslip, hint, hevi]

/-- A waiting machine with no reset and no NMI executes nothing. -/
theorem State.boundary_waiting (hcold : s.env.pins.cold = false) (hcoldLevel : s.coldLevel = false)
    (hwarm : s.env.pins.warm = false) (hwarmLevel : s.warmLevel = false) (hnmi : s.nmiPending = false)
    (hstays : s.staysWaiting = true) : s.boundary = .next { s with waitSlip := 0 }.finish := by
  simp [State.boundary, hcold, hcoldLevel, hwarm, hwarmLevel, hnmi, hstays]

/-- Settles O22: WAITI sets the wait, and a waiting step only drains the buffer. -/
theorem waitState : Obligations.WaitState := by
  refine ⟨fun s hu => ⟨_, State.withCp0_of_usable hu, rfl, rfl, rfl⟩, ?_⟩
  intro s p hp hwait hslip hcold hcoldLevel hwarm hwarmLevel hnmi hint hevi
  have hstep : step s = .next { p with waitSlip := 0 }.finish :=
    (congrArg State.boundary hp.symm).trans <| State.boundary_waiting hcold hcoldLevel hwarm hwarmLevel hnmi
      (State.staysWaiting_of hwait hslip hint hevi)
  obtain ⟨hidle, hwaiting, hslipped, hcp0⟩ := State.finish_keeps { p with waitSlip := 0 }
  have hflow : s.SameFlow p := hp ▸ s.sample_sameFlow
  obtain ⟨hpc, hnpc, hgpr⟩ := hflow.trans (State.SameFlow.trans (t := { p with waitSlip := 0 }) ⟨rfl, rfl, rfl⟩ hidle)
  exact ⟨_, hstep, hwaiting.trans hwait, hslipped, hpc, hnpc, hgpr, hcp0⟩

end Sys2Proof.Machine
end

section
/-! The cache instructions (47 R480 to R484): a flush leaves every line of an enabled set Invalid, WB cleans the valid lines
of one index and writes the dirty ones to memory. -/

namespace Sys2Proof.Machine

variable {s : State} {c : CacheSet} {line : Nat}

/-! ### A cache instruction that is seen at once (70 R633) -/

/-- Behind three NOPs, or where the next instructions see it at once, a cache instruction ends with its effect. -/
theorem State.cacheOp_of {op : CacheOp} {x : Unit} {t : State} (hu : s.copUsable 0 = true)
    (hseen : s.threeNops = true ∨ s.env.choice.late = false) (h : s.perform op = .ok x t) :
    s.cacheOp op = .next t.advance := by
  have hnow : (s.threeNops || !s.env.choice.late) = true := by
    rcases hseen with hnops | hprompt
    · rw [hnops, Bool.true_or]
    · rw [hprompt, Bool.not_false, Bool.or_true]
  rw [State.cacheOp, State.withCache_of_usable hu, if_pos hnow, h, Res.ok_andThen, Res.settle_ok]

/-! ### Flushes (47 R481 to R483) -/

/-- A key that no pair of the list has reads as the default. -/
theorem Sparse.get_of_unlisted {α : Type} (d : α) {m : List (Nat × α)} {a : Nat} (h : ∀ p ∈ m, p.1 ≠ a) :
    Sparse.get d m a = d := by
  induction m with
  | nil => rfl
  | cons p m ih =>
    obtain ⟨hp, hm⟩ := List.forall_mem_cons.mp h
    rw [Sparse.get, if_neg (Ne.symm hp), ih hm]

/-- V and WB of the line are 0. -/
def CacheSet.LineInvalid (c : CacheSet) (line : Nat) : Prop :=
  (c.tagAt line).valid = false ∧ (c.tagAt line).dirty = false

theorem CacheSet.lineInvalid_of_unlisted (h : ∀ p ∈ c.tags, p.1 ≠ line) : c.LineInvalid line := by
  have htag : c.tagAt line = .invalid := Sparse.get_of_unlisted _ h
  rw [CacheSet.LineInvalid, htag]
  exact ⟨rfl, rfl⟩

theorem CacheSet.Inv.lineInvalid_invalidate (h : c.Inv) (line : Nat) : (c.invalidate line).LineInvalid line := by
  have htag := h.tagAfter line { c.tagAt line with valid := false, dirty := false } line
  rw [if_pos rfl] at htag
  rw [CacheSet.LineInvalid, CacheSet.invalidate, htag]
  exact ⟨rfl, rfl⟩

/-- An Invalid line stays so whichever line becomes Invalid. -/
theorem CacheSet.Inv.lineInvalid_keep (h : c.Inv) (l : Nat) (hl : c.LineInvalid line) :
    (c.invalidate l).LineInvalid line := by
  by_cases heq : line = l
  · exact heq ▸ h.lineInvalid_invalidate line
  · have htag := h.tagAfter l { c.tagAt l with valid := false, dirty := false } line
    rw [if_neg heq] at htag
    rwa [CacheSet.LineInvalid, CacheSet.invalidate, htag]

/-- A line is Invalid after a run of invalidations that names it, or if it was before. -/
theorem CacheSet.Inv.lineInvalid_foldl (h : c.Inv) (ps : List (Nat × Tag))
    (hl : c.LineInvalid line ∨ ∃ p ∈ ps, p.1 = line) :
    (ps.foldl (fun c p => c.invalidate p.1) c).LineInvalid line := by
  induction ps generalizing c with
  | nil => exact hl.resolve_right fun ⟨_, hmem, _⟩ => absurd hmem List.not_mem_nil
  | cons p ps ih =>
    refine ih (h.invalidate p.1) ?_
    rcases hl with hbefore | ⟨q, hq, rfl⟩
    · exact .inl (h.lineInvalid_keep p.1 hbefore)
    · rcases List.mem_cons.mp hq with rfl | hlater
      · exact .inl (h.lineInvalid_invalidate q.1)
      · exact .inr ⟨q, hlater, rfl⟩

theorem CacheSet.Inv.lineInvalid_invalidateAll (h : c.Inv) (line : Nat) : c.invalidateAll.LineInvalid line := by
  refine h.lineInvalid_foldl c.tags ?_
  by_cases hl : ∃ p ∈ c.tags, p.1 = line
  · exact .inr hl
  · exact .inl (CacheSet.lineInvalid_of_unlisted fun p hp heq => hl ⟨p, hp, heq⟩)

/-- The flush of an enabled set. -/
theorem CacheSet.Inv.lineInvalid_flushSet (h : c.Inv) (s : State) {on : Bool} (built : Bool) (base line : Nat)
    (hon : on = true) : (s.flushSet c on built base).LineInvalid line := by
  rw [State.flushSet, if_pos hon]
  exact h.lineInvalid_invalidateAll line

theorem State.icacheInvalid_flushI (hi : s.Inv) : s.IcacheInvalid s.flushI := fun line =>
  ⟨fun hon => (hi.icache0.lineInvalid_flushSet s _ _ line hon).1,
    fun hon => (hi.icache1.lineInvalid_flushSet s _ _ line hon).1⟩

theorem State.dcacheInvalid_flushD (hi : s.Inv) : s.DcacheInvalid s.flushD := fun line =>
  ⟨hi.dcache0.lineInvalid_flushSet s _ _ line, hi.dcache1.lineInvalid_flushSet s _ _ line⟩

/-- Each flush, by the caches it names. -/
theorem State.flushes (hi : s.Inv) (hu : s.copUsable 0 = true)
    (hseen : s.threeNops = true ∨ s.env.choice.late = false) :
    (∃ t, exec .flushi s = .next t ∧ s.FlushFrame t ∧ t.dcache = s.dcache ∧ s.IcacheInvalid t) ∧
    (∃ t, exec .flushd s = .next t ∧ s.FlushFrame t ∧ t.icache = s.icache ∧ s.DcacheInvalid t) ∧
    (∃ t, exec .flushid s = .next t ∧ s.FlushFrame t ∧ s.IcacheInvalid t ∧ s.DcacheInvalid t) :=
  ⟨⟨_, State.cacheOp_of (op := .flushI) hu hseen rfl, rfl, rfl, State.icacheInvalid_flushI hi⟩,
    ⟨_, State.cacheOp_of (op := .flushD) hu hseen rfl, rfl, rfl, State.dcacheInvalid_flushD hi⟩,
    ⟨_, State.cacheOp_of (op := .flushID) hu hseen rfl, rfl, State.icacheInvalid_flushI hi,
      State.dcacheInvalid_flushD hi⟩⟩

/-! ### The line WB leaves (47 R484) -/

/-- Set `w` of the D-cache takes part in lookups and fills. -/
def State.dOn (s : State) (w : Bool) : Bool := if w then s.dOn1 else s.dOn0

/-- Line `line` of set `w` of the D-cache takes part and is dirty: WB writes it to memory. -/
def State.writesBack (s : State) (w : Bool) (line : Nat) : Bool :=
  s.dOn w && (((s.dcache.way w).tagAt line).valid && ((s.dcache.way w).tagAt line).dirty)

/-- Set `w` once line `line` has been written back. -/
def State.cleanedWay (s : State) (w : Bool) (line : Nat) : CacheSet :=
  if s.writesBack w line then (s.dcache.way w).setTag line { (s.dcache.way w).tagAt line with dirty := false }
  else s.dcache.way w

theorem State.cleanedWay_data (s : State) (w : Bool) (line : Nat) :
    (s.cleanedWay w line).data = (s.dcache.way w).data := by
  unfold State.cleanedWay
  split <;> rfl

/-- Of all tags only the dirty bit of a valid line that takes part may change. -/
theorem State.cleanedWay_tagAt (hi : s.Inv) (w : Bool) (line l : Nat) :
    (s.cleanedWay w line).tagAt l =
      if l = line ∧ s.dOn w = true ∧ ((s.dcache.way w).tagAt l).valid = true
      then { (s.dcache.way w).tagAt l with dirty := false } else (s.dcache.way w).tagAt l := by
  have hset := Kept.dcacheInv hi w
  unfold State.cleanedWay State.writesBack
  by_cases hl : l = line
  · subst hl
    split
    case isTrue hw =>
      simp only [Bool.and_eq_true] at hw
      rw [hset.tagAfter l _ l, if_pos rfl, if_pos ⟨rfl, hw.1, hw.2.1⟩]
    case isFalse hw =>
      split
      case isTrue hclean =>
        have hdirty : ((s.dcache.way w).tagAt l).dirty = false := by simpa [hclean.2.1, hclean.2.2] using hw
        rw [← hdirty]
      case isFalse => rfl
  · rw [if_neg fun h : l = line ∧ _ => hl h.1]
    split
    · rw [hset.tagAfter line _ l, if_neg hl]
    · rfl

/-! ### The memory WB leaves (20 R175, 47 R484) -/

/-- Memory `m` once line `line` of set `w` has been written back to it. -/
def State.memAfterWay (s : State) (w : Bool) (line : Nat) (m : List Host.Cell) : List Host.Cell :=
  if s.writesBack w line then
    Memory.writeBytes m ((s.dcache.way w).lineAddress s.dsize line) ((s.dcache.way w).readData (lineOffset line) 32)
  else m

theorem State.memAfterWay_wf (s : State) (w : Bool) (line : Nat) {m : List Host.Cell} (hm : Memory.wf m = true) :
    Memory.wf (s.memAfterWay w line m) = true := by
  unfold State.memAfterWay
  split
  · exact Memory.wf_writeBytes _ _ _ hm
  · exact hm

/-- The 32 bytes of a line that is written are the line's, the others stay. -/
theorem State.read_memAfterWay (s : State) (w : Bool) (line a : Nat) {m : List Host.Cell} (hm : Memory.wf m = true) :
    Memory.read (s.memAfterWay w line m) a =
      if s.writesBack w line = true ∧ ((s.dcache.way w).lineAddress s.dsize line).toNat ≤ a ∧
        a < ((s.dcache.way w).lineAddress s.dsize line).toNat + 32
      then Sparse.get 0 (s.dcache.way w).data
        (lineOffset line + (a - ((s.dcache.way w).lineAddress s.dsize line).toNat))
      else Memory.read m a := by
  unfold State.memAfterWay
  cases s.writesBack w line with
  | false => simp
  | true =>
    rw [if_pos rfl, Memory.read_writeLine hm]
    simp only [true_and]
    rfl

/-! ### What WB does where no write fails (47 R484) -/

/-- Nothing waits in the buffer, and line `line` of set `w`, if it is written back, lies in ordinary memory. -/
def State.PlainBack (s : State) (w : Bool) (line : Nat) : Prop :=
  s.wbuf = [] ∧
    (s.writesBack w line = true → s.touchesIceport ((s.dcache.way w).lineAddress s.dsize line) 32 = false)

/-- A plain write-back changes nothing but memory and the line. -/
theorem State.writeBackSet_plain (he : s.env.pins.errWrite = false) {w : Bool} (hp : s.PlainBack w line) :
    s.writeBackSet (s.dOn w) w line = .ok () { s with
      mem := s.memAfterWay w line s.mem, dcache := s.dcache.setWay w (s.cleanedWay w line) } := by
  obtain ⟨hbuf, hport⟩ := hp
  unfold State.writesBack at hport
  unfold State.writeBackSet State.cleanedWay State.memAfterWay State.writesBack
  cases hon : s.dOn w with
  | false => simp
  | true =>
    rw [if_pos rfl, State.writeBackLine_of rfl rfl rfl he hbuf fun hv hd => hport (by rw [hon, hv, hd]; rfl),
      Bool.true_and]
    split
    · rfl
    · rw [Cache.setWay_way]

/-- Any write-back cleans the line; it leaves only memory, the buffer and the ICEport to be told. -/
theorem State.writeBackSet_clean (he : s.env.pins.errWrite = false) (w : Bool) (line : Nat) :
    ∃ mem wbuf uart out, s.writeBackSet (s.dOn w) w line = .ok () { s with
      mem := mem, wbuf := wbuf, uart := uart, out := out, dcache := s.dcache.setWay w (s.cleanedWay w line) } := by
  unfold State.writeBackSet State.cleanedWay State.writesBack
  cases s.dOn w with
  | false => exact ⟨s.mem, s.wbuf, s.uart, s.out, by simp⟩
  | true =>
    obtain ⟨mem, wbuf, uart, out, h⟩ := State.writeBackLine_clean (w := w) (line := line) he
    refine ⟨mem, wbuf, uart, out, h.trans ?_⟩
    rw [Bool.true_and]
    split
    · rfl
    · rw [Cache.setWay_way]

/-- Any write-back, with what a plain one adds, in the form that composes over the two sets. -/
theorem State.writeBackSet_of (he : s.env.pins.errWrite = false) (w : Bool) (line : Nat) :
    ∃ mem wbuf uart out, s.writeBackSet (s.dOn w) w line = .ok () { s with
        mem := mem, wbuf := wbuf, uart := uart, out := out, dcache := s.dcache.setWay w (s.cleanedWay w line) } ∧
      (s.PlainBack w line → mem = s.memAfterWay w line s.mem ∧ wbuf = [] ∧ uart = s.uart ∧ out = s.out) := by
  by_cases hp : s.PlainBack w line
  · exact ⟨_, _, _, _, State.writeBackSet_plain he hp, fun _ => ⟨rfl, hp.1, rfl, rfl⟩⟩
  · obtain ⟨mem, wbuf, uart, out, h⟩ := State.writeBackSet_clean he w line
    exact ⟨mem, wbuf, uart, out, h, fun h => absurd h hp⟩

/-- The two sets of an index, set 0's line first. -/
theorem State.writeBackIndex_of (he : s.env.pins.errWrite = false) {ea : Word} (hl : line = lineOf s.dsize ea) :
    ∃ mem wbuf uart out, s.writeBackIndex ea = .ok () { s with
        mem := mem, wbuf := wbuf, uart := uart, out := out
        dcache := { set0 := s.cleanedWay false line, set1 := s.cleanedWay true line } } ∧
      ((∀ w, s.PlainBack w line) →
        mem = s.memAfterWay true line (s.memAfterWay false line s.mem) ∧ wbuf = [] ∧ uart = s.uart ∧ out = s.out) := by
  obtain ⟨mem, wbuf, uart, out, h0, hplain0⟩ := State.writeBackSet_of he false line
  generalize hd : s.dcache.setWay false (s.cleanedWay false line) = d at h0
  generalize ht : { s with mem := mem, wbuf := wbuf, uart := uart, out := out, dcache := d } = t at h0
  obtain ⟨mem', wbuf', uart', out', h1, hplain1⟩ := State.writeBackSet_of (s := t) (by subst ht; exact he) true line
  refine ⟨mem', wbuf', uart', out', ?_, fun hp => ?_⟩
  · have hon : t.dOn true = s.dOn1 := by subst ht; rfl
    rw [State.writeBackIndex, ← hl, show s.dOn0 = s.dOn false from rfl, h0, Res.ok_andThen, ← hon, h1]
    subst ht hd
    rfl
  · obtain ⟨rfl, rfl, rfl, rfl⟩ := hplain0 (hp false)
    subst ht hd
    exact hplain1 ⟨rfl, (hp true).2⟩

/-- Settles O58: the two lines in their order, each cleaned and, where it was dirty, written to memory. -/
theorem cacheWriteBack : Obligations.CacheWriteBack := by
  intro s base off line hi hu hseen he hline
  obtain ⟨mem, wbuf, uart, out, hwb, hplain⟩ := State.writeBackIndex_of he hline
  refine ⟨_, State.cacheOp_of (op := .writeBack (s.ea base off)) hu hseen hwb, ⟨rfl, rfl, rfl, rfl⟩, rfl,
    fun w l => ?_, fun w => ?_, fun dirty pa hdirty hpa hport hbuf => ?_⟩
  · cases w
    · exact State.cleanedWay_tagAt hi false line l
    · exact State.cleanedWay_tagAt hi true line l
  · cases w
    · exact s.cleanedWay_data false line
    · exact s.cleanedWay_data true line
  · have hwrites : ∀ w, dirty w ↔ s.writesBack w line = true := fun w => by
      rw [hdirty w, State.writesBack, Bool.and_eq_true, Bool.and_eq_true]
      rfl
    obtain ⟨rfl, rfl, rfl, rfl⟩ := hplain fun w => ⟨hbuf, fun hw => hpa w ▸ hport w ((hwrites w).mpr hw)⟩
    have hread0 := fun a => s.read_memAfterWay false line a hi.memory
    have hread1 := fun a => s.read_memAfterWay true line a (s.memAfterWay_wf false line hi.memory)
    refine ⟨rfl, rfl, rfl, fun a _ => ?_⟩
    simp only [hwrites, hpa]
    exact ⟨fun h1 => (hread1 a).trans (if_pos h1), fun h1 =>
      ⟨fun h0 => (hread1 a).trans ((if_neg h1).trans ((hread0 a).trans (if_pos h0))),
        fun h0 => (hread1 a).trans ((if_neg h1).trans ((hread0 a).trans (if_neg h0)))⟩⟩

end Sys2Proof.Machine
end

section
/-! Loads and stores while the caches are isolated (20 R200 to R203, R205): what stops them, what a store does to each of
the four sets, what a load reads from the one set that is enabled. -/

namespace Sys2Proof.Machine

variable {s : State} {va : Word} {base rt : BitVec 5} {off : BitVec 16} {isD w : Bool}

/-! ### The four sets (10 R62, R85, R86) -/

/-- The enable bits by set. -/
theorem State.ramEnables_eq (s : State) :
    s.ramEnables = (s.ramOn false false, s.ramOn false true, s.ramOn true false, s.ramOn true true) := by
  simp [State.ramEnables, State.ramOn, State.iSet1, State.dSet1, Ccc.ie0, Ccc.ie1, Ccc.de0, Ccc.de1]

theorem State.Inv.ramSet (hi : s.Inv) (isD w : Bool) : (s.ramSet isD w).Inv := by
  cases isD <;> cases w
  exacts [hi.icache0, hi.icache1, hi.dcache0, hi.dcache1]

/-- The one enabled set is the one selected. -/
theorem State.ramSelected_of (hon : s.ramOn isD w = true)
    (hothers : ∀ d x : Bool, (d, x) ≠ (isD, w) → s.ramOn d x = false) :
    s.ramSelected = some (s.ramSet isD w, s.ramSize isD, s.ramWired isD w) := by
  have hram : ∀ d x : Bool, s.ramOn d x = decide ((d, x) = (isD, w)) := fun d x => by
    by_cases h : (d, x) = (isD, w)
    · cases h
      rw [hon, decide_eq_true rfl]
    · rw [hothers d x h, decide_eq_false h]
  unfold State.ramSelected
  rw [State.ramEnables_eq, hram, hram, hram, hram]
  cases isD <;> cases w <;> rfl

/-! ### What stops an access (20 R200, 93 I31) -/

theorem State.isolateStop_of_notReady (h : s.isolateReady = false) : s.isolateStop = some .isolatePrecondition := by
  simp [State.isolateStop, h]

theorem exec_sw_isolated_stop {r : Refusal} (ha : (s.ea base off).toNat % 4 = 0) (hs : s.Isolated)
    (h : s.isolateStop = some r) : exec (.sw base rt off) s = .refused r := by
  obtain ⟨p, hp⟩ := State.dataAddress_isolated (store := true) ha hs
  change State.storeFrom s _ _ 4 4 _ = _
  rw [State.storeFrom, State.store, hp, Res.ok_andThen, State.writeData, hs.noOca, hs.isolated, h]
  rfl

theorem exec_lw_isolated_stop {r : Refusal} (ha : (s.ea base off).toNat % 4 = 0) (hs : s.Isolated)
    (h : s.isolateStop = some r) : exec (.lw base rt off) s = .refused r := by
  obtain ⟨p, hp⟩ := State.dataAddress_isolated (store := false) ha hs
  change State.loadInto s base rt off 4 id = _
  rw [State.loadInto, State.load, hp, Res.ok_andThen, State.readData, hs.noOca, hs.isolated, h]
  rfl

/-! ### Stores (20 R200, R201, R203, R205) -/

theorem exec_sw_isolated (ha : (s.ea base off).toNat % 4 = 0) (hs : s.Isolated) (h : s.isolateStop = none) :
    exec (.sw base rt off) s = .next (s.isolatedStore s.testMode (s.ea base off) (s.ea base off)
      (toBytes s.cfg.bigEndian 4 (s.reg rt))).advance := by
  obtain ⟨p, hp⟩ := State.dataAddress_isolated (store := true) ha hs
  refine exec_sw_of (u := ()) ?_
  rw [State.store, hp, Res.ok_andThen, State.writeData, hs.noOca, hs.isolated, h]
  rfl

/-- I-cache set 1 as a scratchpad, in Data Test mode: its data stay (20 R205). -/
def State.ramLocked (s : State) (isD w : Bool) (mode : Word) : Bool :=
  !isD && w && Ccc.isr1 s.cp0.ccc && dataTest mode

/-- A store does the same to every enabled set but the locked one. -/
theorem State.ramSet_isolatedStore (s : State) (isD w : Bool) (mode va start : Word) (bs : List Byte) :
    (s.isolatedStore mode va start bs).ramSet isD w =
      if !s.ramLocked isD w mode && s.ramOn isD w
      then isolatedStoreSet (s.ramSet isD w) (s.ramSize isD) isD mode s.cp0.ccc va start bs else s.ramSet isD w := by
  unfold State.isolatedStore State.ramLocked
  rw [State.ramEnables_eq]
  cases isD <;> cases w
  case false.true =>
    rw [Bool.and_comm _ (s.ramOn false true)]
    rfl
  all_goals rfl

section StoreSet

variable {c : CacheSet} {size : Nat} {mode ccc v : Word} {be : Bool}

/-- Invalidate mode (20 R200). -/
theorem CacheSet.Inv.isolatedStore_invalidate (h : c.Inv) (hinv : mode.getLsbD 0 = true) (bs : List Byte) :
    (isolatedStoreSet c size isD mode ccc va va bs).data = c.data ∧
      TagAfter c (isolatedStoreSet c size isD mode ccc va va bs) (lineOf size va)
        { c.tagAt (lineOf size va) with valid := false, dirty := false } := by
  have hset : isolatedStoreSet c size isD mode ccc va va bs = c.invalidate (lineOf size va) := if_pos hinv
  rw [hset]
  exact ⟨rfl, h.tagAfter _ _⟩

/-- Tag Test mode (20 R201, R202). -/
theorem CacheSet.Inv.isolatedStore_tag (h : c.Inv) (hinv : mode.getLsbD 0 = false) (htag : mode.getLsbD 1 = true)
    (bs : List Byte) :
    (isolatedStoreSet c size isD mode ccc va va bs).data = c.data ∧
      TagAfter c (isolatedStoreSet c size isD mode ccc va va bs) (lineOf size va)
        { addr := va.extractLsb' 10 22, valid := true, dirty := isD && ccc.getLsbD 5 } := by
  have hset : isolatedStoreSet c size isD mode ccc va va bs = c.setTag (lineOf size va)
      { addr := va.extractLsb' 10 22, valid := true, dirty := isD && ccc.getLsbD 5 } :=
    (if_neg (Bool.eq_false_iff.mp hinv)).trans (if_pos htag)
  rw [hset]
  exact ⟨rfl, h.tagAfter _ _⟩

/-- Data Test mode (20 R203). -/
theorem CacheSet.Inv.isolatedStore_data (h : c.Inv) (hinv : mode.getLsbD 0 = false) (htag : mode.getLsbD 1 = false) :
    (isolatedStoreSet c size isD mode ccc va va (toBytes be 4 v)).tags = c.tags ∧
      DataAfter c (isolatedStoreSet c size isD mode ccc va va (toBytes be 4 v)) (offsetOf size va) fun j =>
        if j < 4 then some (byteOf v (if be then 3 - j else j)) else none := by
  have hset : isolatedStoreSet c size isD mode ccc va va (toBytes be 4 v) =
      c.writeData (offsetOf size va) (toBytes be 4 v) :=
    (if_neg (Bool.eq_false_iff.mp hinv)).trans (if_neg (Bool.eq_false_iff.mp htag))
  have hdata := h.dataAfter (offsetOf size va) (toBytes be 4 v)
  simp only [toBytes_getElem?] at hdata
  rw [hset]
  exact ⟨rfl, hdata⟩

end StoreSet

/-- Tags are never locked. -/
theorem State.ramLocked_of_notData {mode : Word} (h : mode.getLsbD 0 = true ∨ mode.getLsbD 1 = true) :
    s.ramLocked isD w mode = false := by
  have hmode : dataTest mode = false := by
    unfold dataTest Ccc.tag Ccc.inv
    rcases h with hinv | htag
    · rw [hinv, Bool.not_true, Bool.and_false]
    · rw [htag, Bool.not_true, Bool.false_and]
  rw [State.ramLocked, hmode, Bool.and_false]

theorem State.ramLocked_of_data {mode : Word} (hinv : mode.getLsbD 0 = false) (htag : mode.getLsbD 1 = false) :
    s.ramLocked isD w mode = (!isD && w && s.cp0.ccc.getLsbD 26) := by
  have hmode : dataTest mode = true := by rw [dataTest, Ccc.tag, Ccc.inv, hinv, htag]; rfl
  rw [State.ramLocked, hmode, Bool.and_true, Ccc.isr1]

/-- A word store while the caches are isolated, set by set and mode by mode. -/
theorem State.isolatedStore_sets (hi : s.Inv) {t : State} {v : Word}
    (ht : t = s.isolatedStore s.testMode va va (toBytes s.cfg.bigEndian 4 v)) (isD w : Bool) :
    (s.ramOn isD w = false → t.ramSet isD w = s.ramSet isD w) ∧
    (s.ramOn isD w = true →
      (s.testMode.getLsbD 0 = true → (t.ramSet isD w).data = (s.ramSet isD w).data ∧
        TagAfter (s.ramSet isD w) (t.ramSet isD w) (lineOf (s.ramSize isD) va)
          { (s.ramSet isD w).tagAt (lineOf (s.ramSize isD) va) with valid := false, dirty := false }) ∧
      (s.testMode.getLsbD 0 = false → s.testMode.getLsbD 1 = true → (t.ramSet isD w).data = (s.ramSet isD w).data ∧
        TagAfter (s.ramSet isD w) (t.ramSet isD w) (lineOf (s.ramSize isD) va)
          { addr := va.extractLsb' 10 22, valid := true, dirty := isD && s.cp0.ccc.getLsbD 5 }) ∧
      (s.testMode.getLsbD 0 = false → s.testMode.getLsbD 1 = false →
        (t.ramSet isD w).tags = (s.ramSet isD w).tags ∧
        if (!isD && w && s.cp0.ccc.getLsbD 26) = true then t.ramSet isD w = s.ramSet isD w
        else DataAfter (s.ramSet isD w) (t.ramSet isD w) (offsetOf (s.ramSize isD) va) fun j =>
          if j < 4 then some (byteOf v (if s.cfg.bigEndian then 3 - j else j)) else none)) := by
  have hset := s.ramSet_isolatedStore isD w s.testMode va va (toBytes s.cfg.bigEndian 4 v)
  rw [← ht] at hset
  refine ⟨fun hoff => ?_, fun hon => ?_⟩
  · rw [hset, hoff, Bool.and_false]
    rfl
  rw [hon, Bool.and_true] at hset
  refine ⟨fun hinv => ?_, fun hinv htag => ?_, fun hinv htag => ?_⟩
  · rw [hset, State.ramLocked_of_notData (.inl hinv)]
    exact (hi.ramSet isD w).isolatedStore_invalidate hinv _
  · rw [hset, State.ramLocked_of_notData (.inr htag)]
    exact (hi.ramSet isD w).isolatedStore_tag hinv htag _
  · rw [State.ramLocked_of_data hinv htag] at hset
    cases hlocked : !isD && w && s.cp0.ccc.getLsbD 26 with
    | true =>
      have hsame : t.ramSet isD w = s.ramSet isD w := by rw [hset, hlocked]; rfl
      exact ⟨congrArg CacheSet.tags hsame, hsame⟩
    | false =>
      rw [hset, hlocked]
      exact (hi.ramSet isD w).isolatedStore_data hinv htag

/-! ### Loads (20 R200, R202, R203) -/

theorem yields_lw_isolated (ha : (s.ea base off).toNat % 4 = 0) (hs : s.Isolated) (h : s.isolateStop = none) :
    s.Yields (.lw base rt off) rt
      (ofBytes s.cfg.bigEndian (s.isolatedLoad s.testMode (s.ea base off) (s.ea base off) 4)) := by
  obtain ⟨p, hp⟩ := State.dataAddress_isolated (store := false) ha hs
  refine State.yields_of (exec_lw_of (p := p) ?_)
  rw [State.load, hp, Res.ok_andThen, State.readData, hs.noOca, hs.isolated, h]
  rfl

/-- Tag Test mode: the word made of the tag. -/
theorem State.isolatedLoad_tag {mode : Word} {c : CacheSet} {size : Nat} {wired : Option (BitVec 22)}
    (ha : va.toNat % 4 = 0) (hsel : s.ramSelected = some (c, size, wired)) (hinv : mode.getLsbD 0 = false)
    (htag : mode.getLsbD 1 = true) :
    ofBytes s.cfg.bigEndian (s.isolatedLoad mode va va 4) =
      tagWord (wiredOr wired (c.tagAt (lineOf size va))) va s.env.choice.tagBits := by
  unfold State.isolatedLoad
  simp only [hsel, Ccc.inv, Ccc.tag, hinv, htag, if_true, Bool.false_eq_true, if_false, byteIndex, ha, List.drop_zero]
  rw [List.take_of_length_le (length_toBytes _ _ _).le, ofBytes_toBytes]

/-- Data Test mode: the four bytes of the set. -/
theorem State.isolatedLoad_data {mode : Word} {c : CacheSet} {size : Nat} {wired : Option (BitVec 22)}
    (hsel : s.ramSelected = some (c, size, wired)) (hinv : mode.getLsbD 0 = false) (htag : mode.getLsbD 1 = false) :
    s.isolatedLoad mode va va 4 = c.readData (offsetOf size va) 4 := by
  unfold State.isolatedLoad
  simp only [hsel, Ccc.inv, Ccc.tag, hinv, htag, Bool.false_eq_true, if_false]

/-- The fields of a Tag Test word: the tag, Hit, V and WB (20 R202). -/
theorem tagWord_fields (g : Tag) (va : Word) (ignored : BitVec 7) :
    (tagWord g va ignored).extractLsb' 10 22 = g.addr ∧
      (tagWord g va ignored).getLsbD 2 = (g.addr == va.extractLsb' 10 22) ∧
      (tagWord g va ignored).getLsbD 1 = g.valid ∧ (tagWord g va ignored).getLsbD 0 = g.dirty := by
  unfold tagWord
  refine ⟨BitVec.eq_of_getLsbD_eq fun i hi => ?_, ?_, ?_, ?_⟩
  · rw [BitVec.getLsbD_extractLsb']
    repeat rw [BitVec.getLsbD_append]
    simp [hi]
  all_goals
    repeat rw [BitVec.getLsbD_append]
    simp

/-- The bytes of a word made of bytes, in address order. -/
theorem byteOf_ofBytes (be : Bool) {bs : List Byte} (hl : bs.length = 4) {j : Nat} (hj : j < 4) :
    byteOf (ofBytes be bs) (if be then 3 - j else j) = (bs[j]?).getD 0 := by
  have hlow : ∀ (l : List Byte) (k : Nat), k < 4 → byteOf (ofLowBytes l) k = (l[k]?).getD 0 := by
    intro l k hk
    apply BitVec.eq_of_getLsbD_eq
    intro i hi
    rw [byteOf, BitVec.getLsbD_extractLsb', getLsbD_ofLowBytes _ _ (by omega), show (8 * k + i) / 8 = k by omega,
      show (8 * k + i) % 8 = i by omega]
    simp [hi]
  cases be
  · exact hlow bs j hj
  · refine (hlow bs.reverse (3 - j) (by omega)).trans ?_
    rw [List.getElem?_reverse (by omega), show bs.length - 1 - (3 - j) = j by omega]

/-- A word load while one set is enabled, mode by mode. -/
theorem State.isolatedLoad_word {v : Word} (ha : va.toNat % 4 = 0)
    (hv : v = ofBytes s.cfg.bigEndian (s.isolatedLoad s.testMode va va 4)) (hinv : s.testMode.getLsbD 0 = false)
    (hsel : s.ramSelected = some (s.ramSet isD w, s.ramSize isD, s.ramWired isD w)) :
    (s.testMode.getLsbD 1 = true → ∀ g : Tag, g = (match s.ramWired isD w with
        | none => (s.ramSet isD w).tagAt (lineOf (s.ramSize isD) va)
        | some a => { addr := a, valid := true, dirty := false }) →
      v.extractLsb' 10 22 = g.addr ∧ v.getLsbD 2 = (g.addr == va.extractLsb' 10 22) ∧ v.getLsbD 1 = g.valid ∧
      v.getLsbD 0 = g.dirty) ∧
    (s.testMode.getLsbD 1 = false → ∀ j < 4, byteOf v (if s.cfg.bigEndian then 3 - j else j) =
      Sparse.get 0 (s.ramSet isD w).data (offsetOf (s.ramSize isD) va + j)) := by
  refine ⟨fun htag g hg => ?_, fun htag j hj => ?_⟩
  · have hwired : g = wiredOr (s.ramWired isD w) ((s.ramSet isD w).tagAt (lineOf (s.ramSize isD) va)) := by
      rw [hg]
      cases s.ramWired isD w <;> rfl
    rw [hv, State.isolatedLoad_tag ha hsel hinv htag, ← hwired]
    exact tagWord_fields g va _
  · rw [State.isolatedLoad_data hsel hinv htag] at hv
    rw [hv, byteOf_ofBytes _ (CacheSet.length_readData _ _ _) hj, CacheSet.readData_getElem?, if_pos hj, Option.getD_some]

/-- Settles O57: the flushes by the caches they name; an isolated access by what stops it, then by its mode. -/
theorem cacheFlushes : Obligations.CacheFlushes := by
  refine ⟨fun s hi hu hseen => State.flushes hi hu hseen, fun s base rt off va hva ha hi hs => ⟨fun hready => ?_,
    fun hstop => ⟨?_, fun isD w hon hothers hinv => ?_⟩⟩⟩
  all_goals obtain rfl : va = s.ea base off := hva
  · have hstop := State.isolateStop_of_notReady hready
    exact ⟨exec_sw_isolated_stop ha hs hstop, exec_lw_isolated_stop ha hs hstop⟩
  · exact ⟨_, exec_sw_isolated ha hs hstop, rfl, State.isolatedStore_sets hi (t := s.isolatedStore _ _ _ _) rfl⟩
  · exact ⟨_, yields_lw_isolated ha hs hstop, State.isolatedLoad_word ha rfl hinv (State.ramSelected_of hon hothers)⟩

end Sys2Proof.Machine
end

section
/-! What the boundary before an instruction may change (60 R511, 10 R42, R90, R91, 70 R633): each thing that happens
there changes only the fields the statement lists, and so do all of them together. -/

namespace Sys2Proof.Machine

variable {s t u : State}

/-! ### What may change -/

/-- `s` with what the boundary may change taken from `t`. -/
def State.withBoundary (s t : State) : State :=
  { s with
    cp0 := { s.cp0 with count := t.cp0.count, random := t.cp0.random }
    env := t.env, script := t.script, out := t.out, mem := t.mem, wbuf := t.wbuf, icache := t.icache
    dcache := t.dcache, uart := t.uart, nmiPending := t.nmiPending, nmiLevel := t.nmiLevel
    busErrPending := t.busErrPending, timerPending := t.timerPending, trace := t.trace, cacheDue := t.cacheDue
    waitSlip := t.waitSlip }

/-- `t` differs from `s` only in what the boundary may change. -/
def State.BoundaryOnly (s t : State) : Prop := t = s.withBoundary t

theorem State.BoundaryOnly.refl (s : State) : s.BoundaryOnly s := rfl

theorem State.BoundaryOnly.trans (h : s.BoundaryOnly t) (h' : t.BoundaryOnly u) : s.BoundaryOnly u :=
  calc u = t.withBoundary u := h'
    _ = (s.withBoundary t).withBoundary u := congrArg (State.withBoundary · u) h
    _ = s.withBoundary u := rfl

/-- A sequence of things each of which changes only that changes only that. -/
theorem State.boundaryOnly_foldl {α : Type} {f : State → α → State}
    (hf : ∀ (s : State) (a : α), s.BoundaryOnly (f s a)) (l : List α)
    (s : State) : s.BoundaryOnly (l.foldl f s) := by
  induction l generalizing s with
  | nil => exact .refl s
  | cons a l ih => exact (hf s a).trans (ih _)

/-! ### Sampling the inputs (10 R90, R91, 60 R553) -/

theorem State.takeEnv_boundaryOnly (s : State) : s.BoundaryOnly s.takeEnv := rfl

theorem State.runTimer_boundaryOnly (s : State) : s.BoundaryOnly s.runTimer := rfl

theorem State.runRandom_boundaryOnly (s : State) : s.BoundaryOnly s.runRandom := by
  unfold State.runRandom
  split <;> rfl

theorem State.externalWrites_boundaryOnly (s : State) : s.BoundaryOnly s.externalWrites := rfl

theorem State.runSnoops_boundaryOnly (s : State) : s.BoundaryOnly s.runSnoops :=
  State.boundaryOnly_foldl (f := State.snoop) (fun _ _ => rfl) _ s

theorem State.runUart_boundaryOnly (s : State) : s.BoundaryOnly s.runUart := by
  unfold State.runUart
  split
  · rfl
  · split <;> rfl

theorem State.latchEvents_boundaryOnly (s : State) : s.BoundaryOnly s.latchNmi.latchBusError := rfl

theorem State.sample_boundaryOnly (s : State) : s.BoundaryOnly s.sample :=
  s.takeEnv_boundaryOnly.trans <| (State.runTimer_boundaryOnly _).trans <| (State.runRandom_boundaryOnly _).trans <|
    (State.externalWrites_boundaryOnly _).trans <| (State.runSnoops_boundaryOnly _).trans <|
    (State.runUart_boundaryOnly _).trans <| State.latchEvents_boundaryOnly _

/-! ### Cache instructions not seen yet (70 R633) -/

theorem State.drain_boundaryOnly (s : State) (n : Nat) : s.BoundaryOnly (s.drain n) := by
  obtain ⟨wbuf, mem, uart, out, env, err, h⟩ := s.drain_eq n
  rw [h]
  rfl

/-- Every state an answer carries differs from `s` only in what the boundary may change. -/
theorem State.awaitDrain_boundaryOnly (s : State) (n : Nat) : (s.awaitDrain n).Sat s.BoundaryOnly := by
  unfold State.awaitDrain
  dsimp only
  split
  · exact s.drain_boundaryOnly n
  · trivial

/-- A line written to the bus, however that ends. -/
theorem State.busLine_boundaryOnly (s : State) (pa : Word) (bs : List Byte) :
    (s.busLine pa bs).Sat s.BoundaryOnly := by
  have hanswer : s.BoundaryOnly s.answerWrite := by
    unfold State.answerWrite
    split <;> rfl
  unfold State.busLine State.endWrite
  split
  · trivial
  · refine hanswer.trans ?_
    dsimp only
    split
    · obtain ⟨mem, uart, out, h⟩ := s.answerWrite.physLine_eq pa bs
      rw [h]
      rfl
    · rfl

/-- What an answer satisfies, weakened. -/
theorem Res.Sat.mono {α : Type} {P Q : State → Prop} {x : Res α} (h : x.Sat P) (hpq : ∀ t, P t → Q t) : x.Sat Q := by
  cases x with
  | ok a t => exact hpq t h
  | raise e t => exact hpq t h
  | abandon t => exact hpq t h
  | fault f => trivial
  | refuse r => trivial

theorem State.writeBackLine_boundaryOnly (s : State) (w : Bool) (line : Nat) :
    (s.writeBackLine w line).Sat s.BoundaryOnly := by
  unfold State.writeBackLine
  dsimp only
  split
  · refine (s.awaitDrain_boundaryOnly _).andThen fun _ t ht => ?_
    have hline := (t.busLine_boundaryOnly ((s.dcache.way w).lineAddress s.dsize line)
      ((s.dcache.way w).readData (lineOffset line) 32)).mono fun _ h => ht.trans h
    exact hline.andThen fun _ _ hu => hu.trans rfl
  · exact .refl s

theorem State.writeBackSet_boundaryOnly (s : State) (on w : Bool) (line : Nat) :
    (s.writeBackSet on w line).Sat s.BoundaryOnly := by
  unfold State.writeBackSet
  split
  · exact s.writeBackLine_boundaryOnly w line
  · exact .refl s

theorem State.perform_boundaryOnly (s : State) (op : CacheOp) : (s.perform op).Sat s.BoundaryOnly := by
  cases op with
  | flushI | flushD | flushID => exact rfl
  | writeBack ea =>
    exact (s.writeBackSet_boundaryOnly _ _ _).andThen fun _ t ht =>
      (t.writeBackSet_boundaryOnly _ _ _).mono fun _ h => ht.trans h

theorem State.performLate_boundaryOnly (s : State) (d : DueOp) : s.BoundaryOnly (s.performLate d) := by
  have hperform := s.perform_boundaryOnly d.op
  unfold State.performLate
  cases hx : s.perform d.op <;> rw [hx] at hperform
  case ok => exact hperform
  all_goals rfl

theorem State.settleCache_boundaryOnly (s : State) : s.BoundaryOnly s.settleCache := by
  unfold State.settleCache
  split
  · rfl
  · exact State.BoundaryOnly.trans (t := { s with cacheDue := [] }) rfl
      (State.boundaryOnly_foldl State.performLate_boundaryOnly _ _)

/-! ### The boundary (60 R511) -/

theorem State.ageTrace_boundaryOnly (s : State) : s.BoundaryOnly s.ageTrace := by
  unfold State.ageTrace
  split <;> rfl

theorem State.beginStep_boundaryOnly (s : State) : s.BoundaryOnly s.beginStep :=
  s.ageTrace_boundaryOnly.trans ((State.settleCache_boundaryOnly _).trans rfl)

/-- Settles O5: the inputs are sampled, then the trace facility and the cache instructions move on. -/
theorem boundaryFrame : Obligations.BoundaryFrame := by
  rintro s t rfl
  exact s.sample_boundaryOnly.trans (State.beginStep_boundaryOnly _)

end Sys2Proof.Machine
end

section
/-! Taking an exception (60 R505, R520 to R523, R540, R546): what every entry changes and what it leaves alone, then what
it writes to Status, EPC and Cause, where it goes, what it records, and that a return undoes it. -/

namespace Sys2Proof.Machine

variable {s t u : State} {e : Exc}

/-! ### What an entry leaves alone (60 R540) -/

/-- `s` with what an entry may change taken from `t`. -/
def State.withEntry (s t : State) : State :=
  { s with
    hi := t.hi, lo := t.lo, pc := t.pc, npc := t.npc, inSlot := t.inSlot, taken := t.taken, slotOfJr := t.slotOfJr
    cp0 := { s.cp0 with
      badVAddr := t.cp0.badVAddr, context := t.cp0.context, entryHi := t.cp0.entryHi, entryLo := t.cp0.entryLo
      cause := t.cp0.cause, epc := t.cp0.epc, status := t.cp0.status }
    itlb := t.itlb, busErrPending := t.busErrPending, waiting := t.waiting, waitSlip := t.waitSlip, out := t.out
    recent := t.recent, tlbRecent := t.tlbRecent, trace := t.trace }

/-- `t` differs from `s` only in what an entry may change. -/
def State.EntryOnly (s t : State) : Prop := t = s.withEntry t

theorem State.EntryOnly.trans (h : s.EntryOnly t) (h' : t.EntryOnly u) : s.EntryOnly u :=
  calc u = t.withEntry u := h'
    _ = (s.withEntry t).withEntry u := congrArg (State.withEntry · u) h
    _ = s.withEntry u := rfl

/-- Whatever an entry may not change is as it was. -/
theorem State.EntryOnly.keeps {α : Type} (h : s.EntryOnly t) (f : State → α) (hf : f (s.withEntry t) = f s) :
    f t = f s :=
  (congrArg f h).trans hf

theorem State.leakHiLo_entryOnly (s : State) : s.EntryOnly s.leakHiLo := by
  obtain ⟨hi, lo, h⟩ := s.leakHiLo_eq
  rw [h]
  rfl

theorem State.record_entryOnly (s : State) (e : Exc) : s.EntryOnly (s.record e) := by
  cases e with
  | adel va | ades va =>
    obtain ⟨b, v, h⟩ := (s.recordAddress va).recordBadPage_eq
    exact (congrArg s.EntryOnly h).mpr rfl
  | _ => rfl

theorem State.enter_entryOnly (s t : State) (target cause epc : Word) (o : Outputs) :
    t.EntryOnly (s.enter t target cause epc o) := by
  unfold State.enter
  split <;> rfl

theorem State.takeException_entryOnly (s : State) (e : Exc) : s.EntryOnly (s.takeException e) :=
  s.leakHiLo_entryOnly.trans <| (State.record_entryOnly _ e).trans <| s.enter_entryOnly ..

theorem State.takeDebug_entryOnly (s : State) : s.EntryOnly s.takeDebug :=
  s.leakHiLo_entryOnly.trans <| s.enter_entryOnly ..

theorem State.takeEvi_entryOnly (s : State) : s.EntryOnly s.takeEvi :=
  s.leakHiLo_entryOnly.trans <| s.enter_entryOnly ..

/-! ### Status (60 R540, 10 R46) -/

theorem State.getLsbD_statusPushed (h : s.r3000 = false) {k : Nat} (hk : k < 32) :
    s.statusPushed.getLsbD k = (s.cp0.status.getLsbD k || decide (k = 1)) := by
  have hpushed : s.statusPushed = s.cp0.status ||| 2 := if_neg (Bool.eq_false_iff.mp h)
  have hexl : ∀ k < 32, (2 : Word).getLsbD k = decide (k = 1) := by decide
  rw [hpushed, BitVec.getLsbD_or, hexl k hk]

theorem State.statusPushed_r4000 (h : s.r3000 = false) :
    s.statusPushed = s.cp0.status.extractLsb' 2 30 ++ (1 : BitVec 1) ++ s.cp0.status.extractLsb' 0 1 := by
  refine BitVec.eq_of_getLsbD_eq fun k hk => ?_
  rw [State.getLsbD_statusPushed h hk, BitVec.getLsbD_append, BitVec.getLsbD_append]
  rcases k with _ | _ | k
  · simp
  · simp
  · simp [show k < 30 by omega, show 2 + k = k + 1 + 1 by omega]

theorem State.statusPushed_r3000 (h : s.r3000 = true) :
    s.statusPushed = s.cp0.status.extractLsb' 6 26 ++ s.cp0.status.extractLsb' 0 4 ++ (0 : BitVec 2) := by
  have hpushed : s.statusPushed = merge 0x3F s.cp0.status ((s.cp0.status &&& 0xF) <<< 2) := if_pos h
  have hstack : ∀ k < 32, (0x3F : Word).getLsbD k = decide (k < 6) := by decide
  have hpairs : ∀ k < 32, (0xF : Word).getLsbD k = decide (k < 4) := by decide
  rw [hpushed]
  refine BitVec.eq_of_getLsbD_eq fun k hk => ?_
  rw [getLsbD_merge, hstack k hk, BitVec.getLsbD_shiftLeft, BitVec.getLsbD_and, hpairs _ (by omega),
    BitVec.getLsbD_append, BitVec.getLsbD_append]
  rcases k with _ | _ | k
  · simp
  · simp
  · by_cases hlow : k < 4
    · simp [hlow, hk]
    · simp [hlow, show k - 4 < 26 by omega, show 6 + (k - 4) = k + 1 + 1 by omega, Nat.le_of_not_lt hlow]

/-- EXL is set, or the pushed stack names Kernel mode. -/
theorem State.statusPushed_one (s : State) : s.statusPushed.getLsbD 1 = !s.r3000 := by
  cases h : s.r3000 with
  | false => rw [State.statusPushed_r4000 h, BitVec.getLsbD_append, BitVec.getLsbD_append]; rfl
  | true => rw [State.statusPushed_r3000 h, BitVec.getLsbD_append]; rfl

/-- The pushed stack disables interrupts. -/
theorem State.statusPushed_zero (h : s.r3000 = true) : s.statusPushed.getLsbD 0 = false := by
  rw [State.statusPushed_r3000 h, BitVec.getLsbD_append]
  rfl

/-! ### EPC and Cause (60 R540, 10 R52) -/

/-- Inside an exception level EPC is kept. -/
theorem State.epcAt_kept (hmode : s.r3000 = false) (hexl : s.exl = true) : s.epcAt = s.cp0.epc :=
  if_neg (by simp [State.writesEpc, hmode, hexl])

theorem State.getLsbD_causeOf (s : State) (e : Exc) (bd bt : Bool) {k : Nat} (hk : k < 32) :
    (s.causeOf e bd bt).getLsbD k =
      if k = 31 then bd else if k = 30 then bt else if 28 ≤ k then (s.causeUnit e).getLsbD (k - 28)
      else if k = 8 ∨ k = 9 then s.cp0.cause.getLsbD k
      else if 2 ≤ k ∧ k < 7 then e.code.getLsbD (k - 2) else false := by
  have hbd : ∀ b : Bool, ∀ k < 32, (flag 0x80000000 b).getLsbD k = (decide (k = 31) && b) := by decide
  have hbt : ∀ b : Bool, ∀ k < 32, (flag 0x40000000 b).getLsbD k = (decide (k = 30) && b) := by decide
  have hunit : ∀ z : BitVec 2, ∀ k < 32,
      (z.zeroExtend 32 <<< 28 : Word).getLsbD k = (decide (28 ≤ k) && z.getLsbD (k - 28)) := by decide
  have hcode : ∀ z : BitVec 5, ∀ k < 32,
      (z.zeroExtend 32 <<< 2 : Word).getLsbD k = (decide (2 ≤ k) && z.getLsbD (k - 2)) := by decide
  have hkept : ∀ k < 32, ((0x300 : Nat) : Word).getLsbD k = decide (k = 8 ∨ k = 9) := by decide
  simp only [State.causeOf, BitVec.getLsbD_or, BitVec.getLsbD_and, hbd _ k hk, hbt _ k hk, hkept k hk,
    hunit _ k hk, hcode _ k hk]
  grind

section Cause

variable (s : State) (e : Exc) (bd bt : Bool)

theorem State.causeOf_bd : (s.causeOf e bd bt).getLsbD 31 = bd := s.getLsbD_causeOf e bd bt (by decide)

theorem State.causeOf_bt : (s.causeOf e bd bt).getLsbD 30 = bt := s.getLsbD_causeOf e bd bt (by decide)

theorem State.causeOf_unit : (s.causeOf e bd bt).extractLsb' 28 2 = s.causeUnit e := by
  refine BitVec.eq_of_getLsbD_eq fun k hk => ?_
  rw [BitVec.getLsbD_extractLsb', s.getLsbD_causeOf e bd bt (by omega)]
  simp [hk, show 28 + k ≠ 31 by omega, show 28 + k ≠ 30 by omega]

theorem State.causeOf_software : (s.causeOf e bd bt).extractLsb' 8 2 = s.cp0.cause.extractLsb' 8 2 := by
  refine BitVec.eq_of_getLsbD_eq fun k hk => ?_
  rw [BitVec.getLsbD_extractLsb', BitVec.getLsbD_extractLsb', s.getLsbD_causeOf e bd bt (by omega)]
  simp [show 8 + k ≠ 31 by omega, show 8 + k ≠ 30 by omega, show ¬28 ≤ 8 + k by omega,
    show k = 0 ∨ 8 + k = 9 by omega]

/-- The live interrupt bits are not stored, and the reserved bits stay clear (10 R32, R53). -/
theorem State.causeOf_clear : s.causeOf e bd bt &&& 0x0FFF0083 = 0 := by
  have hwithin : Within 0xF000037C (s.causeOf e bd bt) :=
    ((((Within.flag bd (by decide)).or (Within.flag bt (by decide))).or (Within.unit _)).or
      (Within.and_mask _ (by decide))).or (Within.code _)
  rw [← hwithin.and_eq, BitVec.and_assoc]
  exact BitVec.and_zero

end Cause

/-! ### The mode after an entry (10 R49, R50) -/

/-- Every entry leaves Kernel mode with interrupts disabled. -/
theorem State.enter_mode (target cause epc : Word) (o : Outputs) (hccc : t.cp0.ccc = s.cp0.ccc) :
    (s.enter t target cause epc o).kernelMode = true ∧ (s.enter t target cause epc o).intEnabled = false := by
  have hmode : (s.enter t target cause epc o).r3000 = s.r3000 := congrArg Ccc.cmp hccc
  have hexl : (s.enter t target cause epc o).exl = !s.r3000 := s.statusPushed_one
  have hcurrent : (s.enter t target cause epc o).cp0.status.getLsbD 1 = !s.r3000 := s.statusPushed_one
  unfold State.kernelMode State.intEnabled
  rw [hmode, hexl, hcurrent]
  cases h : s.r3000 with
  | false => simp
  | true => exact ⟨rfl, State.statusPushed_zero h⟩

theorem State.takeException_mode (s : State) (e : Exc) :
    (s.takeException e).kernelMode = true ∧ (s.takeException e).intEnabled = false :=
  State.enter_mode _ _ _ _
    ((s.leakHiLo_entryOnly.trans (State.record_entryOnly _ e)).keeps (·.cp0.ccc) rfl)

/-! ### HI and LO (60 R503) -/

theorem State.record_hiLo (s : State) (e : Exc) : (s.record e).hi = s.hi ∧ (s.record e).lo = s.lo := by
  cases e with
  | adel va | ades va =>
    obtain ⟨b, v, hpage⟩ := (s.recordAddress va).recordBadPage_eq
    exact ⟨(congrArg State.hi hpage).trans rfl, (congrArg State.lo hpage).trans rfl⟩
  | _ => exact ⟨rfl, rfl⟩

theorem State.enter_hiLo (s t : State) (target cause epc : Word) (o : Outputs) :
    (s.enter t target cause epc o).hi = t.hi ∧ (s.enter t target cause epc o).lo = t.lo := by
  unfold State.enter
  split <;> exact ⟨rfl, rfl⟩

/-- HI and LO stay where no younger instruction is let change them. -/
theorem State.takeException_hiLo (e : Exc) (h : s.env.choice.leakHiLo = none) :
    (s.takeException e).hi = s.hi ∧ (s.takeException e).lo = s.lo := by
  have hleak : s.leakHiLo = s := by
    rw [State.leakHiLo, h]
  unfold State.takeException
  rw [hleak]
  obtain ⟨hhi, hlo⟩ := s.record_hiLo e
  obtain ⟨hhi', hlo'⟩ := s.enter_hiLo (s.record e) (s.vectorBase + s.vectorOffset e)
    (s.causeOf e (s.restartInfo e).2.1 (s.restartInfo e).2.2) (s.restartInfo e).1 { s.out with event := some (.exc e) }
  exact ⟨hhi'.trans hhi, hlo'.trans hlo⟩

/-! ### The common entry (60 R540) -/

/-- Entry writes Cause, EPC and Status and keeps the other registers as the record left them. -/
theorem State.takeException_cp0 (s : State) (e : Exc) : (s.takeException e).cp0 =
    { (s.leakHiLo.record e).cp0 with
      cause := s.causeOf e (s.restartInfo e).2.1 (s.restartInfo e).2.2
      epc := (s.restartInfo e).1
      status := s.statusPushed } := rfl

/-- Settles O11: the frame of every entry, and the fields of Cause, EPC and Status. -/
theorem exceptionEntry : Obligations.ExceptionEntry := by
  rintro s t e rfl htrap
  obtain ⟨hkernel, hint⟩ := s.takeException_mode e
  have hinfo := State.restartInfo_usual htrap
  have hcause : (s.takeException e).cp0.cause = s.causeOf e s.inSlot s.btAt := by
    rw [s.takeException_cp0, hinfo]
  have hepc : (s.takeException e).cp0.epc = s.epcAt := congrArg Prod.fst hinfo
  have hframe := s.takeException_entryOnly e
  rw [hcause, hepc]
  refine ⟨s.causeOf_bd .., fun hslot => (s.causeOf_bt ..).trans (if_pos hslot), s.causeOf_code .., fun z he => ?_,
    s.causeOf_software .., s.causeOf_clear .., State.epcAt_of_writes, State.epcAt_kept, State.statusPushed_r4000,
    State.statusPushed_r3000, rfl, rfl, rfl, hkernel, hint, hframe.keeps State.gpr rfl, State.takeException_hiLo e,
    hframe.keeps State.llbit rfl, hframe.keeps State.tlb rfl, hframe.keeps State.icache rfl,
    hframe.keeps State.dcache rfl, hframe.keeps State.mem rfl, hframe.keeps State.wbuf rfl, rfl⟩
  rw [s.causeOf_unit, he]
  rfl

/-! ### Where an exception goes (60 R546) -/

theorem State.vectorBase_eq (s : State) :
    s.vectorBase = match s.bev, s.r3000 with
      | false, _ => 0x80000000
      | true, false => 0xBFC00200
      | true, true => 0xBFC00100 := by
  unfold State.vectorBase
  cases s.bev <;> cases s.r3000 <;> rfl

theorem State.takeException_pc (s : State) (e : Exc) : (s.takeException e).pc = s.vectorBase + s.vectorOffset e := rfl

/-- Only a TLB refill has an offset of its own. -/
theorem State.vectorOffset_common (h : ∀ store va, e ≠ .tlbRefill store va) : s.vectorOffset e = s.commonOffset := by
  cases e with
  | tlbRefill store va => exact absurd rfl (h store va)
  | _ => rfl

/-- Settles O12: the base and the offset, by the two modes; the codes are the model's own table. -/
theorem exceptionVectorsAndCodes : Obligations.ExceptionVectorsAndCodes := by
  refine ⟨fun s e => ⟨fun he => ?_, ?_⟩, rfl, fun _ => rfl, fun _ => rfl, fun _ => rfl, fun _ => rfl, fun _ => rfl,
    fun _ => rfl, fun _ => rfl, rfl, rfl, rfl, rfl, fun _ => rfl, rfl, rfl, rfl⟩
  · rw [s.takeException_pc, State.vectorOffset_common he, s.vectorBase_eq, State.commonOffset]
    cases s.bev <;> cases s.r3000 <;> rfl
  · rintro store va rfl
    rw [s.takeException_pc, s.vectorBase_eq, State.vectorOffset, State.commonOffset]
    cases s.r3000 with
    | false => cases s.exl <;> cases s.bev <;> rfl
    | true => cases va.getLsbD 31 <;> cases s.bev <;> rfl

/-! ### What an exception records (60 R520 to R523) -/

/-- A field inside the bits a merge takes is the new value's. -/
theorem extractLsb'_merge_new {mask : Word} {k n : Nat} (h : mask.extractLsb' k n = BitVec.allOnes n) (old new : Word) :
    (merge mask old new).extractLsb' k n = new.extractLsb' k n := by
  refine BitVec.eq_of_getLsbD_eq fun i hi => ?_
  have hbit : mask.getLsbD (k + i) = true := by
    simpa [hi] using congrArg (BitVec.getLsbD · i) h
  simp only [BitVec.getLsbD_extractLsb', getLsbD_merge, hbit, if_true]

/-- A field outside them is the old value's. -/
theorem extractLsb'_merge_old {mask : Word} {k n : Nat} (h : mask.extractLsb' k n = 0) (old new : Word) :
    (merge mask old new).extractLsb' k n = old.extractLsb' k n := by
  refine BitVec.eq_of_getLsbD_eq fun i hi => ?_
  have hbit : mask.getLsbD (k + i) = false := by
    simpa [hi] using congrArg (BitVec.getLsbD · i) h
  simp only [BitVec.getLsbD_extractLsb', getLsbD_merge, hbit, Bool.false_eq_true, if_false]

/-- A page number moved to its field. -/
theorem extractLsb'_shifted {k n : Nat} (x : BitVec n) (h : k + n ≤ 32) :
    (x.zeroExtend 32 <<< k : Word).extractLsb' k n = x := by
  refine BitVec.eq_of_getLsbD_eq fun i hi => ?_
  simp [hi, show k + i < 32 by omega]

/-- A record of the address `va` and of a page: the page goes to Context and EntryHi; PTEBase and the ASID stay (60
R521). -/
theorem State.recordPage_fields (s : State) (va : Word) (b v : BitVec 20) {c : Cp0}
    (hc : c = ((s.leakHiLo.recordAddress va).recordPage b v).cp0) :
    c.badVAddr = va ∧ c.context.extractLsb' 2 20 = b ∧
      c.context.extractLsb' 22 10 = s.cp0.context.extractLsb' 22 10 ∧ c.entryHi.extractLsb' 12 20 = v ∧
      c.entryHi.extractLsb' 0 8 = s.cp0.entryHi.extractLsb' 0 8 := by
  obtain ⟨hi, lo, hleak⟩ := s.leakHiLo_eq
  rw [hleak] at hc
  subst hc
  exact ⟨rfl, (extractLsb'_merge_new (by decide) _ _).trans (extractLsb'_shifted b (by decide)),
    extractLsb'_merge_old (by decide) _ _,
    (extractLsb'_merge_new (by decide) _ _).trans (extractLsb'_shifted v (by decide)),
    extractLsb'_merge_old (by decide) _ _⟩

/-- The exceptions of the TLB, which record the page of `va` (60 R521 to R523). -/
def Exc.IsTlbException (e : Exc) (va : Word) : Prop := e = .mod va ∨ ∃ st, e = .tlbRefill st va ∨ e = .tlbInvalid st va

theorem State.record_tlbException {va : Word} (h : e.IsTlbException va) :
    s.record e = (s.recordAddress va).recordPage (va.extractLsb' 12 20) (va.extractLsb' 12 20) := by
  rcases h with rfl | ⟨st, rfl | rfl⟩ <;> rfl

/-- The exceptions that record neither address nor page. -/
def Exc.RecordsNothing (e : Exc) : Prop :=
  e = .int ∨ e = .bus ∨ e = .sys ∨ e = .bp ∨ e = .ri ∨ (∃ z, e = .cpu z) ∨ e = .ov ∨ e = .tr ∨ e = .fpe

theorem State.record_nothing (h : e.RecordsNothing) : (s.record e).cp0 = s.cp0 ∧ (s.record e).itlb = s.itlb := by
  rcases h with rfl | rfl | rfl | rfl | rfl | ⟨z, rfl⟩ | rfl | rfl | rfl <;> exact ⟨rfl, rfl⟩

/-- Entry keeps the instruction TLB as the record left it. -/
theorem State.takeException_itlb (s : State) (e : Exc) : (s.takeException e).itlb = (s.leakHiLo.record e).itlb := by
  unfold State.takeException State.enter
  dsimp only
  split <;> rfl

/-- Settles O13: entry keeps what the record wrote, which is an address and a page, or nothing. -/
theorem exceptionRecords : Obligations.ExceptionRecords := by
  refine ⟨fun s t e va he ht => ?tlb, fun s t e va he ht => ?address, fun s t e he ht => ?others⟩
  all_goals rw [ht, s.takeException_cp0]
  case tlb =>
    have hrecord := State.record_tlbException (s := s.leakHiLo) he
    obtain ⟨hbad, hpage, hbase, hvpn, hasid⟩ := s.recordPage_fields va _ _ (congrArg State.cp0 hrecord)
    exact ⟨hbad, hpage, hbase, hvpn, hasid, (s.takeException_itlb e).trans (congrArg State.itlb hrecord)⟩
  case address =>
    obtain ⟨b, v, hpage⟩ := (s.leakHiLo.recordAddress va).recordBadPage_eq
    have hrecord := (State.record_addressError (s := s.leakHiLo) he).trans hpage
    obtain ⟨hbad, -, hbase, -, hasid⟩ := s.recordPage_fields va _ _ (congrArg State.cp0 hrecord)
    exact ⟨hbad, hbase, hasid⟩
  case others =>
    obtain ⟨hcp0, hitlb⟩ := State.record_nothing (s := s.leakHiLo) he
    obtain ⟨hi, lo, hleak⟩ := s.leakHiLo_eq
    rw [hcp0, s.takeException_itlb, hitlb, hleak]
    exact ⟨rfl, rfl, rfl, rfl, rfl⟩

/-! ### The return (60 R547) -/

theorem State.endHazards_recent_nil (h : s.recent = []) (rs : List HazardReg) : (s.endHazards rs).recent = [] := by
  rw [State.endHazards_nil h, h]

theorem State.record_recent (e : Exc) (h : s.recent = []) : (s.record e).recent = [] := by
  cases e with
  | adel va | ades va =>
    obtain ⟨b, v, hpage⟩ := (s.recordAddress va).recordBadPage_eq
    exact (congrArg State.recent hpage).trans (State.endHazards_recent_nil (s := s.recordAddress va) h _)
  | mod va | tlbRefill _ va | tlbInvalid _ va => exact State.endHazards_recent_nil (s := s.recordAddress va) h _
  | _ => exact h

/-- Where no distance is pending, entry leaves none. -/
theorem State.takeException_recent (e : Exc) (h : s.recent = []) : (s.takeException e).recent = [] := by
  have hrecord : (s.leakHiLo.record e).recent = [] := by
    obtain ⟨hi, lo, hleak⟩ := s.leakHiLo_eq
    exact State.record_recent e ((congrArg State.recent hleak).trans h)
  unfold State.takeException State.enter
  dsimp only
  split
  · exact State.endHazards_recent_nil hrecord _
  · exact hrecord

/-- The handler may use CP0 (45 R441). -/
theorem State.takeException_usable (s : State) (e : Exc) : (s.takeException e).copUsable 0 = true := by
  simp [State.copUsable, (s.takeException_mode e).1]

/-- Popping the pushed stack gives the current and the previous pair back. -/
theorem State.statusPushed_pairs (h : s.r3000 = true) :
    s.statusPushed.extractLsb' 2 4 = s.cp0.status.extractLsb' 0 4 := by
  rw [State.statusPushed_r3000 h]
  exact (BitVec.extractLsb'_append_eq_of_le (Nat.le_refl 2)).trans BitVec.extractLsb'_append_eq_right

/-- Settles O19: what ERET and RFE do (O17, O18), in the state entry leaves. -/
theorem exceptionThenReturnRestores : Obligations.ExceptionThenReturnRestores := by
  intro s e htrap hrecent
  have hframe := s.takeException_entryOnly e
  have hmode : (s.takeException e).r3000 = s.r3000 := hframe.keeps State.r3000 rfl
  have hgpr : (s.takeException e).gpr = s.gpr := hframe.keeps State.gpr rfl
  have hmem : (s.takeException e).mem = s.mem := hframe.keeps State.mem rfl
  refine ⟨fun hnew hexl herl => ?_, fun hold => ?_⟩
  · obtain ⟨-, -, heret⟩ := eretReturns (s.takeException e) (s.takeException_usable e)
    obtain ⟨t, hnext, hpc, -, -, -, -, hleft, ht⟩ :=
      heret (hmode.trans hnew) rfl (State.takeException_recent e hrecent)
    have herl' : (s.takeException e).erl = false :=
      (State.getLsbD_statusPushed hnew (by decide)).trans (by rw [show s.cp0.status.getLsbD 2 = false from herl]; rfl)
    obtain ⟨hexl', hbits⟩ := hleft herl'
    rw [herl', if_neg Bool.false_ne_true, State.takeException_epc htrap (.inr hexl)] at hpc
    refine ⟨t, hnext, BitVec.eq_of_getLsbD_eq fun k hk => ?_, hpc, ?_, ?_⟩
    · by_cases h1 : k = 1
      · subst h1
        exact hexl'.trans hexl.symm
      · exact (hbits k h1).trans ((State.getLsbD_statusPushed hnew hk).trans (by simp [h1]))
    · rw [ht]
      exact hgpr
    · rw [ht]
      exact hmem
  · obtain ⟨-, -, hrfe⟩ := rfeReturns (s.takeException e) (s.takeException_usable e)
    obtain ⟨t, hnext, hstatus, -, -, -, -, ht⟩ := hrfe (hmode.trans hold) fun hslot => absurd hslot Bool.false_ne_true
    refine ⟨t, hnext, ?_, ?_, ?_⟩
    · rw [hstatus]
      exact BitVec.extractLsb'_append_eq_right.trans (State.statusPushed_pairs hold)
    · rw [ht]
      exact hgpr
    · rw [ht]
      exact hmem

end Sys2Proof.Machine
end

section
/-! The Debug and the External Vectored Interrupt entries (60 R541, R542, R546) and the detection of Debug events (60
R560 to R562, R564): where the breakpoint facility is on, which addresses match, what an event notes. -/

namespace Sys2Proof.Machine

variable {s : State} {va : Word}

/-! ### Cause and the vector (60 R541, R542, R546) -/

/-- The Debug entry takes BD and BT and keeps the rest of Cause. -/
theorem merge_bdBt (old : Word) (bd bt : Bool) {v : Word}
    (hv : v = merge 0xC0000000 old (flag 0x80000000 bd ||| flag 0x40000000 bt)) :
    v.getLsbD 31 = bd ∧ v.getLsbD 30 = bt ∧ v.extractLsb' 0 30 = old.extractLsb' 0 30 := by
  subst hv
  refine ⟨(getLsbD_merge _ _ _ _).trans ?_, (getLsbD_merge _ _ _ _).trans ?_, extractLsb'_merge_old (by decide) _ _⟩
  · cases bd <;> cases bt <;> rfl
  · cases bd <;> cases bt <;> rfl

/-- The vectored interrupt takes BD alone. -/
theorem merge_bd (old : Word) (bd : Bool) :
    merge 0x80000000 old (flag 0x80000000 bd) = BitVec.ofBool bd ++ old.extractLsb' 0 31 := by
  have hmask : ∀ k < 32, (0x80000000 : Word).getLsbD k = decide (k = 31) := by decide
  refine BitVec.eq_of_getLsbD_eq fun k hk => ?_
  rw [getLsbD_merge, hmask k hk, BitVec.getLsbD_append]
  by_cases h31 : k = 31
  · subst h31
    cases bd <;> rfl
  · simp [h31, show k < 31 by omega]

theorem State.debugVector (s : State) : s.vectorBase + 0x040 = match s.bev, s.r3000 with
    | false, _ => 0x80000040
    | true, false => 0xBFC00240
    | true, true => 0xBFC00140 := by
  rw [s.vectorBase_eq]
  cases s.bev <;> cases s.r3000 <;> rfl

/-! ### Detection (60 R560 to R562, R564) -/

theorem State.debugOn_iff : s.debugOn = true ↔ s.cp0.dcs.getLsbD 23 = true ∧
    (s.userMode = true ∧ s.cp0.dcs.getLsbD 30 = true ∨ s.kernelMode = true ∧ s.cp0.dcs.getLsbD 29 = true) := by
  simp only [State.debugOn, Bool.and_eq_true, Bool.or_eq_true]

theorem State.debugTaken_iff :
    s.debugTaken = true ↔ s.cp0.dcs.getLsbD 31 = true ∧ (s.r3000 = true ∨ s.exl = false) := by
  simp only [State.debugTaken, Bool.and_eq_true, Bool.or_eq_true, Bool.not_eq_true']

/-- Two words agree under a mask. -/
theorem xor_and_eq_zero_iff (a b m : Word) :
    (a ^^^ b) &&& m = 0 ↔ ∀ k < 32, m.getLsbD k = true → a.getLsbD k = b.getLsbD k := by
  have hbit : ∀ k, ((a ^^^ b) &&& m).getLsbD k = ((a.getLsbD k != b.getLsbD k) && m.getLsbD k) := by simp
  constructor
  · intro h k _ hm
    have hk := hbit k
    rw [h, hm, Bool.and_true] at hk
    exact bne_eq_false_iff_eq.mp (hk.symm.trans BitVec.getLsbD_zero)
  · intro h
    refine BitVec.eq_of_getLsbD_eq fun k hk => ?_
    rw [hbit]
    cases hm : m.getLsbD k with
    | false => simp
    | true => simp [h k hk hm]

theorem State.dataMatch_iff :
    s.dataMatch va = true ↔ ∀ k < 32, s.cp0.bdam.getLsbD k = true → va.getLsbD k = s.cp0.bda.getLsbD k :=
  beq_iff_eq.trans (xor_and_eq_zero_iff _ _ _)

theorem State.pcMatch_iff : s.pcMatch va = true ↔
    ∀ k, 2 ≤ k → k < 32 → s.cp0.bpcm.getLsbD k = true → va.getLsbD k = s.cp0.bpc.getLsbD k := by
  have hword : ∀ k < 32, (0xFFFFFFFC : Word).getLsbD k = decide (2 ≤ k) := by decide
  have hzero : s.pcMatch va = true ↔ (va ^^^ s.cp0.bpc) &&& (s.cp0.bpcm &&& 0xFFFFFFFC) = 0 := by
    rw [← BitVec.and_assoc]
    exact beq_iff_eq
  rw [hzero, xor_and_eq_zero_iff]
  refine forall_congr' fun k => ?_
  constructor
  · intro h h2 hk hm
    exact h hk (by rw [BitVec.getLsbD_and, hm, hword k hk, decide_eq_true h2]; rfl)
  · intro h hk hm
    rw [BitVec.getLsbD_and, hword k hk, Bool.and_eq_true, decide_eq_true_eq] at hm
    exact h hm.2 hk hm.1

theorem State.pcEvent_iff : s.pcEvent va = true ↔ s.debugOn = true ∧ s.cp0.dcs.getLsbD 24 = true ∧
    ∀ k, 2 ≤ k → k < 32 → s.cp0.bpcm.getLsbD k = true → va.getLsbD k = s.cp0.bpc.getLsbD k := by
  rw [← State.pcMatch_iff, State.pcEvent, Bool.and_eq_true, Bool.and_eq_true, and_assoc]

theorem State.dataEvent_iff (store : Bool) : s.dataEvent va store = true ↔
    s.debugOn = true ∧ s.cp0.dcs.getLsbD 25 = true ∧ s.cp0.dcs.getLsbD (if store then 27 else 26) = true ∧
      ∀ k < 32, s.cp0.bdam.getLsbD k = true → va.getLsbD k = s.cp0.bda.getLsbD k := by
  have hkind : (if store then s.cp0.dcs.getLsbD 27 else s.cp0.dcs.getLsbD 26) =
      s.cp0.dcs.getLsbD (if store then 27 else 26) := by cases store <;> rfl
  rw [← State.dataMatch_iff, State.dataEvent, hkind, Bool.and_eq_true, Bool.and_eq_true, Bool.and_eq_true, and_assoc,
    and_assoc, and_comm (a := s.dataMatch va = true)]

/-! ### A load or store whose Debug exception is taken (60 R562, R564) -/

theorem State.dataAddress_abandons {store : Bool} (ha : va.toNat % 4 = 0) (hv : va.extractLsb' 30 2 = 0b10#2)
    (hu : s.userMode = false) (ht : s.debugTaken = true) (he : s.dataEvent va store = true) :
    s.dataAddress va 4 store = .abandon (s.debugDataCheck va store) := by
  rw [State.dataAddress_unmapped ha hu hv, he, ht]
  rfl

/-- Settles O14: the fields of the two entries, then each check against its event. -/
theorem debugAndEviEntry : Obligations.DebugAndEviEntry := by
  refine ⟨?debug, ?evi, fun s => ⟨State.debugOn_iff, State.debugTaken_iff⟩, ?pc, ?data, ?access⟩
  case debug =>
    rintro s t rfl
    obtain ⟨hbd, hbt, hkept⟩ := merge_bdBt s.cp0.cause s.inSlot s.btAt (v := s.takeDebug.cp0.cause) rfl
    have hframe := s.takeDebug_entryOnly
    exact ⟨hbd, fun hslot => hbt.trans (if_pos hslot), hkept, hframe.keeps (·.cp0.dcs) rfl, State.epcAt_of_writes,
      State.epcAt_kept, State.statusPushed_r4000, State.statusPushed_r3000, s.debugVector, rfl, rfl,
      hframe.keeps State.gpr rfl, hframe.keeps State.mem rfl, hframe.keeps State.tlb rfl, hframe.keeps State.llbit rfl⟩
  case evi =>
    rintro s t rfl
    have hframe := s.takeEvi_entryOnly
    exact ⟨merge_bd _ _, State.epcAt_of_writes, State.epcAt_kept, State.statusPushed_r4000, State.statusPushed_r3000,
      rfl, rfl, rfl, rfl, hframe.keeps State.gpr rfl, hframe.keeps State.mem rfl, hframe.keeps State.tlb rfl,
      hframe.keeps State.llbit rfl⟩
  case pc =>
    intro s va hit hhit
    rw [← State.pcEvent_iff] at hhit
    exact ⟨fun h => if_pos (hhit.mp h), fun h => if_neg (mt hhit.mpr h)⟩
  case data =>
    rintro s va store hit _ hhit rfl
    rw [← State.dataEvent_iff] at hhit
    exact ⟨fun h => if_pos (hhit.mp h), fun h => if_neg (mt hhit.mpr h)⟩
  case access =>
    intro s base rt off va hva ha hv hu ht
    obtain rfl : va = s.ea base off := hva
    refine ⟨fun he => ?_, fun he => ?_⟩
    · change s.loadInto base rt off 4 _ = _
      rw [State.loadInto, State.load, State.dataAddress_abandons ha hv hu ht he]
      rfl
    · change s.storeFrom _ _ 4 4 _ = _
      rw [State.storeFrom, State.store, State.dataAddress_abandons ha hv hu ht he]
      rfl

end Sys2Proof.Machine
end

section
/-! NMI, warm reset and cold reset (60 R543 to R545, 10 R51, R100, R101): Status and ErrorEPC, which buffered stores stay,
and what a cold reset sets whatever the state before. -/

namespace Sys2Proof.Machine

variable {s u : State}

/-! ### Status at NMI and warm reset (60 R543) -/

/-- BEV and SR are set and bit 21 is clear, before the level or the stack changes. -/
theorem getLsbD_nmiBits (w : Word) {k : Nat} (hk : k < 32) :
    ((w ||| 0x00500000) &&& 0xFFDFFFFF).getLsbD k =
      if k = 20 ∨ k = 22 then true else if k = 21 then false else w.getLsbD k := by
  have hset : ∀ k < 32, (0x00500000 : Word).getLsbD k = decide (k = 20 ∨ k = 22) := by decide
  have hkeep : ∀ k < 32, (0xFFDFFFFF : Word).getLsbD k = decide (k ≠ 21) := by decide
  rw [BitVec.getLsbD_and, BitVec.getLsbD_or, hset k hk, hkeep k hk]
  grind

theorem State.statusNmi_r4000 (h : s.r3000 = false) :
    s.statusNmi = s.cp0.status.extractLsb' 23 9 ++ (0b101 : BitVec 3) ++ s.cp0.status.extractLsb' 3 17 ++
      (1 : BitVec 1) ++ s.cp0.status.extractLsb' 0 2 := by
  have hstatus : s.statusNmi = ((s.cp0.status ||| 0x00500000) &&& 0xFFDFFFFF) ||| 4 :=
    if_neg (Bool.eq_false_iff.mp h)
  have herl : ∀ k < 32, (4 : Word).getLsbD k = decide (k = 2) := by decide
  rw [hstatus]
  refine BitVec.eq_of_getLsbD_eq fun k hk => ?_
  rw [BitVec.getLsbD_or, getLsbD_nmiBits _ hk, herl k hk, BitVec.getLsbD_append, BitVec.getLsbD_append,
    BitVec.getLsbD_append, BitVec.getLsbD_append]
  simp only [BitVec.getLsbD_extractLsb']
  grind

theorem State.statusNmi_r3000 (h : s.r3000 = true) :
    s.statusNmi = s.cp0.status.extractLsb' 23 9 ++ (0b101 : BitVec 3) ++ s.cp0.status.extractLsb' 6 14 ++
      s.cp0.status.extractLsb' 0 4 ++ (0 : BitVec 2) := by
  have hstatus : s.statusNmi = merge 0x3F ((s.cp0.status ||| 0x00500000) &&& 0xFFDFFFFF)
      ((((s.cp0.status ||| 0x00500000) &&& 0xFFDFFFFF) &&& 0xF) <<< 2) := if_pos h
  have hstack : ∀ k < 32, (0x3F : Word).getLsbD k = decide (k < 6) := by decide
  have hpairs : ∀ k < 32, (0xF : Word).getLsbD k = decide (k < 4) := by decide
  rw [hstatus]
  refine BitVec.eq_of_getLsbD_eq fun k hk => ?_
  rw [getLsbD_merge, hstack k hk, BitVec.getLsbD_shiftLeft, BitVec.getLsbD_and, hpairs _ (by omega),
    getLsbD_nmiBits _ hk, getLsbD_nmiBits _ (show k - 2 < 32 by omega), BitVec.getLsbD_append, BitVec.getLsbD_append,
    BitVec.getLsbD_append, BitVec.getLsbD_append]
  simp only [BitVec.getLsbD_extractLsb']
  grind

theorem State.statusNmi_eq (s : State) : s.statusNmi = if s.r3000
    then s.cp0.status.extractLsb' 23 9 ++ (0b101 : BitVec 3) ++ s.cp0.status.extractLsb' 6 14 ++
      s.cp0.status.extractLsb' 0 4 ++ (0 : BitVec 2)
    else s.cp0.status.extractLsb' 23 9 ++ (0b101 : BitVec 3) ++ s.cp0.status.extractLsb' 3 17 ++
      (1 : BitVec 1) ++ s.cp0.status.extractLsb' 0 2 := by
  split
  · exact State.statusNmi_r3000 ‹_›
  · exact State.statusNmi_r4000 (Bool.eq_false_iff.mpr ‹_›)

/-! ### The entry (60 R543, R544) -/

/-- `t` has entered an NMI or a warm reset from `s`: ErrorEPC, Status and the pc are written, the registers and
the TLB stay. -/
def State.EntersReset (s t : State) : Prop :=
  t.cp0 = { s.cp0 with errorEpc := s.restart &&& 0xFFFFFFFC, status := s.statusNmi } ∧
    t.pc = 0xBFC00000 ∧ t.npc = 0xBFC00004 ∧ t.inSlot = false ∧ t.waiting = false ∧ t.gpr = s.gpr ∧ t.tlb = s.tlb

/-! ### Buffered stores (93 I3) -/

/-- The stores that are not lost stay in their order. -/
theorem keptEntries_sublist (lost : List Bool) (l : List WriteEntry) : (keptEntries lost l).Sublist l := by
  fun_induction keptEntries lost l with
  | case1 _ e _ ih => exact ih.cons e
  | case2 _ e _ ih => exact ih.cons_cons e
  | case3 => exact List.Sublist.refl _

/-- Where none is lost all stay. -/
theorem keptEntries_nil (l : List WriteEntry) : keptEntries [] l = l := by
  cases l <;> rfl

/-- The stores that reach memory at a warm reset change memory and the ICEport alone. -/
theorem State.foldl_physWrite_eq (l : List WriteEntry) (s : State) :
    ∃ mem uart out, l.foldl State.physWrite s = { s with mem := mem, uart := uart, out := out } := by
  induction l generalizing s with
  | nil => exact ⟨_, _, _, rfl⟩
  | cons e l ih =>
    obtain ⟨mem, uart, out, hfirst⟩ := s.physWrite_eq e
    obtain ⟨mem', uart', out', hrest⟩ := ih (s.physWrite e)
    rw [List.foldl_cons, hrest, hfirst]
    exact ⟨_, _, _, rfl⟩

theorem State.takeNmi_enters (s : State) : s.EntersReset s.takeNmi := by
  obtain ⟨hi, lo, hleak⟩ := s.leakHiLo_eq
  unfold State.takeNmi
  rw [hleak]
  exact ⟨rfl, rfl, rfl, rfl, rfl, rfl, rfl⟩

theorem State.takeWarm_enters (s : State) : s.EntersReset s.takeWarm := by
  obtain ⟨mem, uart, out, hwrites⟩ :=
    State.foldl_physWrite_eq (keptEntries s.env.choice.lost s.wbuf) { s with wbuf := [] }
  unfold State.takeWarm
  rw [hwrites]
  exact ⟨rfl, rfl, rfl, rfl, rfl, rfl, rfl⟩

/-- An NMI keeps the caches and memory (60 R543). -/
theorem State.takeNmi_keeps (s : State) :
    s.takeNmi.icache = s.icache ∧ s.takeNmi.dcache = s.dcache ∧ s.takeNmi.mem = s.mem := by
  obtain ⟨hi, lo, hleak⟩ := s.leakHiLo_eq
  unfold State.takeNmi
  rw [hleak]
  exact ⟨rfl, rfl, rfl⟩

/-- Settles O15: both enter by the same writes; an NMI keeps the memory system but for the stores it loses. -/
theorem nmiAndWarmResetEntry : Obligations.NmiAndWarmResetEntry := by
  intro s
  obtain ⟨hicache, hdcache, hmem⟩ := s.takeNmi_keeps
  refine ⟨fun t ht => ?_, rfl, hicache, hdcache, keptEntries_sublist _ _, fun hlost => ?_, hmem⟩
  · have henters : s.EntersReset t := by
      rcases ht with rfl | rfl
      · exact s.takeNmi_enters
      · exact s.takeWarm_enters
    rwa [State.EntersReset, s.statusNmi_eq] at henters
  · change keptEntries s.env.choice.lost s.wbuf = s.wbuf
    rw [hlost, keptEntries_nil]

/-! ### Cold reset (60 R545, 10 R100) -/

/-- BEV and ERL are set, CU, RP, bit 21 and SR are clear (10 R51). -/
theorem State.coldCp0_status (s : State) : s.coldCp0.status &&& 0xF0700004 = 0x00400004 := by
  have hapart : ∀ x : Word, (x &&& 0x0000FF3B) &&& 0xF0700004 = 0 := fun x => by
    rw [BitVec.and_assoc]
    exact BitVec.and_zero
  have hset : ∀ x : Word, x &&& 0xF0700004 = 0 → (x ||| 0x00400004) &&& 0xF0700004 = 0x00400004 := by
    intro x hx
    rw [BitVec.and_comm, BitVec.and_or_distrib_left, BitVec.and_comm, hx]
    rfl
  refine hset _ ?_
  split
  · exact hapart _
  · exact hapart _

/-- Cold reset leaves Kernel mode with interrupts disabled, in R4000 mode (10 R51). -/
theorem State.takeCold_mode (s : State) :
    s.takeCold.kernelMode = true ∧ s.takeCold.intEnabled = false ∧ s.takeCold.r3000 = false := by
  have hmode : s.takeCold.r3000 = false := by
    rw [State.r3000, State.takeCold_cp0]
    exact BitVec.getLsbD_zero
  have herl : s.takeCold.erl = true := by
    rw [State.erl, State.takeCold_cp0]
    exact (BitVec.getLsbD_or ..).trans (Bool.or_true _)
  simp [State.kernelMode, State.intEnabled, hmode, herl]

/-- Settles O16: the registers as `takeCold` writes them, and the mode they give. -/
theorem coldResetEntry : Obligations.ColdResetEntry := by
  rintro s t rfl
  obtain ⟨hkernel, hint, hmode⟩ := s.takeCold_mode
  rw [State.takeCold_cp0]
  exact ⟨rfl, rfl, rfl, rfl, rfl, s.coldCp0_status, rfl, rfl, rfl, State.reg_zero _, rfl, rfl, rfl, rfl,
    s.takeCold_wbuf, rfl, rfl, rfl, rfl, s.takeCold_mem, hkernel, hint, hmode⟩

end Sys2Proof.Machine
end

section
/-! Interrupts, the timer and the ICEport (60 R550, R551, R553, R554, R570): the bits of Cause that are live, when an
interrupt is due, which clocks match, and the ICEport's registers one by one. -/

namespace Sys2Proof.Machine

variable {s : State}

/-! ### The pending bits (10 R53, 60 R551) -/

theorem State.getLsbD_ip (s : State) {k : Nat} (hk : k < 8) : s.ip.getLsbD k =
    if k < 2 then s.cp0.cause.getLsbD (8 + k) else if k < 7 then s.exIntPins.getLsbD (k - 2)
    else if s.cp0.ccc.getLsbD 19 then s.timerPending else s.exIntPins.getLsbD 5 := by
  rw [State.ip, BitVec.getLsbD_append, BitVec.getLsbD_append, Ccc.tmr]
  by_cases h2 : k < 2
  · simp [h2]
  · by_cases h7 : k < 7
    · simp [h2, h7, show k - 2 < 5 by omega]
    · obtain rfl : k = 7 := by omega
      cases s.cp0.ccc.getLsbD 19 <;> simp

/-- Cause reads the pending bits: the live ones are not stored (10 R53). -/
theorem State.getLsbD_causeRead (hinv : s.cp0.Inv) {k : Nat} (hk : k < 8) :
    s.causeRead.getLsbD (8 + k) = s.ip.getLsbD k := by
  have hmask : ∀ k < 8, (0xF000037C : Word).getLsbD (8 + k) = decide (k < 2) := by decide
  have hstored : s.cp0.cause.getLsbD (8 + k) = (s.cp0.cause.getLsbD (8 + k) && decide (k < 2)) := by
    rw [← hmask k hk, ← BitVec.getLsbD_and, hinv.cause.and_eq]
  rw [s.causeRead_eq, BitVec.getLsbD_or, BitVec.getLsbD_append, BitVec.getLsbD_append, hstored]
  by_cases h2 : k < 2
  · simp [h2, s.getLsbD_ip hk, show 8 + k < 10 by omega]
  · simp [h2, show ¬8 + k < 10 by omega, show 8 + k - 10 < 6 by omega, show 2 + (8 + k - 10) = k by omega]

/-- Some bit is set in both of two words. -/
theorem and_ne_zero_iff {n : Nat} (a b : BitVec n) :
    a &&& b ≠ 0 ↔ ∃ k < n, a.getLsbD k = true ∧ b.getLsbD k = true := by
  have hbit : ∀ k, (a &&& b).getLsbD k = true ↔ a.getLsbD k = true ∧ b.getLsbD k = true := fun k => by
    rw [BitVec.getLsbD_and, Bool.and_eq_true]
  constructor
  · contrapose!
    intro h
    refine BitVec.eq_of_getLsbD_eq fun k hk => ?_
    rw [Bool.eq_false_iff.mpr fun hset => (h k hk ((hbit k).mp hset).1) ((hbit k).mp hset).2]
    exact BitVec.getLsbD_zero.symm
  · rintro ⟨k, -, hk⟩ hzero
    have hset := (hbit k).mpr hk
    rw [hzero] at hset
    exact Bool.false_ne_true (BitVec.getLsbD_zero.symm.trans hset)

/-! ### When an interrupt is due (60 R550, R554) -/

theorem State.intDue_iff (hinv : s.cp0.Inv) : s.intDue = true ↔ s.intEnabled = true ∧
    ∃ k < 8, s.causeRead.getLsbD (8 + k) = true ∧ s.cp0.status.getLsbD (8 + k) = true := by
  have hmask : ∀ k < 8, (s.cp0.status.extractLsb' 8 8).getLsbD k = s.cp0.status.getLsbD (8 + k) := fun k hk => by
    rw [BitVec.getLsbD_extractLsb', decide_eq_true hk, Bool.true_and]
  rw [State.intDue, Bool.and_eq_true, bne_iff_ne]
  refine and_congr_right fun _ => (and_ne_zero_iff _ _).trans (exists_congr fun k => and_congr_right fun hk => ?_)
  rw [State.getLsbD_causeRead hinv hk, hmask k hk]

theorem State.eviDue_iff : s.eviDue = true ↔
    s.intEnabled = true ∧ s.cp0.ccc.getLsbD 25 = true ∧ s.env.pins.evi = true := by
  rw [State.eviDue, Bool.and_eq_true, Bool.and_eq_true, Ccc.evi, and_comm (a := s.cp0.ccc.getLsbD 25 = true), and_assoc]

theorem State.intEnabled_iff : s.intEnabled = true ↔ if s.cp0.ccc.getLsbD 24 then s.cp0.status.getLsbD 0 = true else
    s.cp0.status.getLsbD 0 = true ∧ s.cp0.status.getLsbD 1 = false ∧ s.cp0.status.getLsbD 2 = false := by
  have hmode : s.r3000 = s.cp0.ccc.getLsbD 24 := rfl
  rw [State.intEnabled, hmode]
  cases s.cp0.ccc.getLsbD 24 with
  | false => simp only [Bool.false_eq_true, if_false, Bool.and_eq_true, Bool.not_eq_true', and_assoc, State.exl,
      State.erl]
  | true => rfl

/-- Settles O20: each condition, and the live bits of Cause from the pending bits. -/
theorem interruptConditions : Obligations.InterruptConditions := by
  intro s hinv
  have hlive : ∀ k < 8, s.causeRead.getLsbD (8 + k) = _ := fun k hk =>
    (State.getLsbD_causeRead hinv hk).trans (s.getLsbD_ip hk)
  refine ⟨State.intDue_iff hinv, State.eviDue_iff, State.intEnabled_iff, fun k hk => ?_, fun k hk => ?_,
    hlive 7 (by decide)⟩
  · exact (hlive k (by omega)).trans (if_pos hk)
  · have hk' := hlive (2 + k) (by omega)
    rw [if_neg (by omega), if_pos (by omega), ← Nat.add_assoc, Nat.add_sub_cancel_left] at hk'
    exact hk'

/-! ### The timer (60 R553) -/

/-- Count reaches Compare at the clock that makes up the difference. -/
theorem add_ofNat_succ_eq_iff (count compare : Word) (k : Nat) :
    count + BitVec.ofNat 32 (k + 1) = compare ↔ compare - count - 1 = BitVec.ofNat 32 k := by
  constructor
  · intro h
    bv_omega
  · intro h
    bv_omega

theorem State.timerMatch_iff (n : Nat) : s.timerMatch n = true ↔
    ∃ k, 1 ≤ k ∧ k ≤ n ∧ s.cp0.count + BitVec.ofNat 32 k = s.cp0.compare := by
  rw [State.timerMatch, decide_eq_true_eq]
  constructor
  · intro h
    exact ⟨_, Nat.le_add_left 1 _, h, (add_ofNat_succ_eq_iff _ _ _).mpr (BitVec.eq_of_toNat_eq (by simp))⟩
  · rintro ⟨k, h1, hn, hk⟩
    obtain ⟨j, rfl⟩ := Nat.exists_eq_add_of_le' h1
    rw [(add_ofNat_succ_eq_iff _ _ j).mp hk, BitVec.toNat_ofNat]
    exact Nat.lt_of_le_of_lt (Nat.mod_le _ _) hn

/-- Settles O21: the clocks are the given ones, and a match among them is one of theirs. -/
theorem timerMatch : Obligations.TimerMatch := by
  intro s n hn
  have hclocks : s.clocks = n := by rw [State.clocks, hn, Option.getD_some]
  refine ⟨?_, ?_⟩
  · rw [← hclocks]
    rfl
  · rw [← State.timerMatch_iff, ← hclocks, ← Bool.and_eq_true, ← Bool.or_eq_true]
    rfl

/-! ### The ICEport (60 R570) -/

/-- The receive flags as Rx Status shows them. -/
theorem iceport_rxStatus (overrun ready : Bool) :
    flag 2 overrun ||| flag 1 ready = (0 : BitVec 30) ++ BitVec.ofBool overrun ++ BitVec.ofBool ready := by
  cases overrun <;> cases ready <;> rfl

/-- The transmit flag as Tx Status shows it. -/
theorem iceport_txStatus (ready : Bool) : flag 1 ready = (0 : BitVec 31) ++ BitVec.ofBool ready := by
  cases ready <;> rfl

/-- While a reset input is asserted the ICEport's flags are those of reset. -/
theorem State.runUart_reset (h : s.env.pins.cold = true ∨ s.env.pins.warm = true) :
    s.runUart = { s with uart := s.uart.clear } := by
  have hheld : s.resetHeld = true := by
    unfold State.resetHeld
    rcases h with h | h <;> simp [h]
  exact if_pos hheld

/-- Settles O60: the registers by their numbers. -/
theorem iceportRegisters : Obligations.IceportRegisters := by
  intro s v u x
  refine ⟨?_, fun h => ?_, ?_, rfl, fun h => if_pos h, fun h => if_neg (Bool.eq_false_iff.mp h), fun h => if_pos h,
    fun h t ht => ?_⟩
  · exact congrArg (·, _) (iceport_rxStatus _ _)
  · refine congrArg (·, _) ((if_pos h).trans ?_)
    exact BitVec.setWidth_eq_append (by decide)
  · exact congrArg (·, _) (iceport_txStatus _)
  · rw [ht, State.runUart_reset h]
    exact ⟨rfl, rfl, rfl, rfl, rfl⟩

end Sys2Proof.Machine
end

section
/-! One step, clause by clause (60 R510, R511, 20 R162): what the boundary considers first, the fetch of plain uncached
memory, the end of an instruction, and what the end of a step leaves of the instruction's state. -/

namespace Sys2Proof.Machine

variable {s b t : State}

/-! ### Before the fetch (60 R511, lines 1 to 4) -/

theorem State.boundary_coldReleased (hcold : s.env.pins.cold = false) (hlevel : s.coldLevel = true) :
    s.boundary = .next { s.takeCold with coldLevel := false, warmLevel := s.env.pins.warm }.finish := by
  rw [State.boundary, if_neg (Bool.eq_false_iff.mp hcold), if_pos hlevel]

section NoReset

variable (hcold : s.env.pins.cold = false) (hcoldLevel : s.coldLevel = false) (hwarm : s.env.pins.warm = false)

include hcold hcoldLevel hwarm

theorem State.boundary_warmReleased (hlevel : s.warmLevel = true) :
    s.boundary = .next { s.takeWarm with warmLevel := false }.finish := by
  simp [State.boundary, hcold, hcoldLevel, hwarm, hlevel]

theorem State.boundary_nmi (hwarmLevel : s.warmLevel = false) (hnmi : s.nmiPending = true) :
    s.boundary = .next (s.takeNmi).finish := by
  simp [State.boundary, hcold, hcoldLevel, hwarm, hwarmLevel, hnmi]

end NoReset

theorem State.Runs.boundary (h : s.Runs) : s.boundary = s.beginStep.runOne := by
  simp [State.boundary, h.noCold, h.noColdEdge, h.noWarm, h.noWarmEdge, h.noNmi, h.awake, h.defined]

/-! ### The fetch (60 R511, lines 5 and 6) -/

section Fetched

variable {w : Word}

theorem State.runOne_ok (h : b.fetch b.pc = .ok w t) : b.runOne = t.runFetched w := by rw [State.runOne, h]

theorem State.runFetched_clear (h : s.busErrPending = false) : s.runFetched w = s.resolve (execWord w s) :=
  if_neg (Bool.eq_false_iff.mp h)

theorem State.runFetched_busError (h : s.busErrPending = true) : s.runFetched w = .next (s.takeException .bus).finish :=
  if_pos h

end Fetched

/-! ### The end of an instruction (60 R511, lines 8 to 12) -/

theorem State.resolve_event (h : t.out.event.isSome = true) : b.resolve (.next t) = .next t.finish := by
  simp [State.resolve, h]

section NoEvent

variable (hevent : t.out.event.isSome = false)

include hevent

theorem State.resolve_int (hint : b.intDue = true) : b.resolve (.next t) = .next (b.takeException .int).finish := by
  simp [State.resolve, hevent, hint]

theorem State.resolve_evi (hint : b.intDue = false) (hevi : b.eviDue = true) :
    b.resolve (.next t) = .next (b.takeEvi).finish := by
  simp [State.resolve, hevent, hint, hevi]

theorem State.resolve_debug (hint : b.intDue = false) (hevi : b.eviDue = false)
    (hdebug : (t.out.debugDue && b.debugTaken) = true) :
    b.resolve (.next t) = .next (((b.setDcs (t.out.dataBits &&& 0x3F)).leakNext).takeDebug).finish := by
  simp [State.resolve, hevent, hint, hevi, hdebug]

theorem State.resolve_effect (hint : b.intDue = false) (hevi : b.eviDue = false)
    (hdebug : (t.out.debugDue && b.debugTaken) = false) : b.resolve (.next t) = .next (t.ageHazards).finish := by
  simp [State.resolve, hevent, hint, hevi, hdebug]

end NoEvent

/-- Settles O7: the boundary, the end of an instruction and the fetch, each by its cases. -/
theorem stepTakesEventsInOrder : Obligations.StepTakesEventsInOrder := by
  refine ⟨⟨?cold, ?boundary, ?resolve⟩, ?fetch⟩
  case cold =>
    rintro s p rfl hcold hlevel
    exact State.boundary_coldReleased hcold hlevel
  case boundary =>
    rintro s p rfl hcold hcoldLevel hwarm
    exact ⟨State.boundary_warmReleased hcold hcoldLevel hwarm, State.boundary_nmi hcold hcoldLevel hwarm,
      State.boundary_waiting hcold hcoldLevel hwarm⟩
  case resolve =>
    exact fun b t => ⟨State.resolve_event, fun hevent => ⟨State.resolve_int hevent, State.resolve_evi hevent,
      fun hint hevi hdue htaken => State.resolve_debug hevent hint hevi (by rw [hdue, htaken]; rfl),
      fun hint hevi hdebug => State.resolve_effect hevent hint hevi (Bool.and_eq_false_iff.mpr hdebug)⟩⟩
  case fetch =>
    rintro s b rfl hruns
    have hstep : step s = s.sample.beginStep.runOne := hruns.boundary
    rw [hstep]
    refine ⟨fun w t hfetch herr => ?_, fun w t hfetch herr => ?_, fun e t hfetch => ?_, fun f hfetch => ?_,
      fun r hfetch => ?_⟩
    · rw [State.runOne_ok hfetch, State.runFetched_clear herr]
    · rw [State.runOne_ok hfetch, State.runFetched_busError herr]
    all_goals rw [State.runOne, hfetch]

/-! ### A fetch of plain uncached memory (20 R133, R162) -/

theorem doublewordBase_toNat (pa : Word) : (pa &&& ~~~7).toNat = pa.toNat - pa.toNat % 8 := by
  have hmask : ∀ k < 32, (~~~7 : Word).getLsbD k = !decide (k < 3) := by decide
  have hshift : pa &&& (~~~7 : Word) = pa >>> 3 <<< 3 := by
    refine BitVec.eq_of_getLsbD_eq fun k hk => ?_
    rw [BitVec.getLsbD_and, hmask k hk, BitVec.getLsbD_shiftLeft, BitVec.getLsbD_ushiftRight]
    by_cases h3 : k < 3
    · simp [h3]
    · simp [h3, hk, show 3 + (k - 3) = k by omega]
  have hlt := pa.isLt
  rw [hshift, BitVec.toNat_shiftLeft, BitVec.toNat_ushiftRight, Nat.shiftLeft_eq, Nat.shiftRight_eq_div_pow]
  omega

/-- The second word of a doubleword. -/
theorem Memory.readBytes_drop_four (m : List Host.Cell) (a : Word) :
    (Memory.readBytes m a 8).drop 4 = Memory.readBytes m (a + 4) 4 := by
  have hnext : a + 1 + 1 + 1 + 1 = a + 4 := by bv_omega
  rw [← hnext]
  rfl

/-- The word at an aligned address is the half of its doubleword that `pickWord` takes. -/
theorem pickWord_doubleword (m : List Host.Cell) {pa : Word} (ha : pa.toNat % 4 = 0) :
    pickWord pa (Memory.readBytes m (pa &&& ~~~7) 8, false) = (Memory.readBytes m pa 4, false) := by
  have hbit : pa.getLsbD 2 = decide (pa.toNat / 4 % 2 = 1) := Nat.testBit_eq_decide_div_mod_eq
  have hbase := doublewordBase_toNat pa
  rw [pickWord, hbit]
  by_cases hodd : pa.toNat / 4 % 2 = 1
  · have hpa : (pa &&& ~~~7) + 4 = pa := by
      generalize pa &&& (~~~7 : Word) = base at hbase
      bv_omega
    rw [decide_eq_true hodd, if_pos rfl, Memory.readBytes_drop_four, hpa]
  · have hpa : pa &&& ~~~7 = pa := BitVec.eq_of_toNat_eq (hbase.trans (by omega))
    rw [decide_eq_false hodd, if_neg Bool.false_ne_true, hpa]
    rfl

/-- A plain fetch gives the four bytes at the pc and changes nothing. -/
theorem State.PlainFetch.fetch (h : s.PlainFetch) : s.fetch s.pc =
    .ok (ofBytes s.cfg.bigEndian (Memory.readBytes s.mem (s.pc &&& 0x1FFFFFFF) 4)) s := by
  have haligned : (s.pc &&& 0x1FFFFFFF).toNat % 4 = 0 := by
    have hpc : s.pc.toNat % 4 = 0 := beq_iff_eq.mp h.aligned
    rw [mask_toNat]
    omega
  have hport : s.touchesIceport ((s.pc &&& 0x1FFFFFFF) &&& ~~~7) 8 = false := by
    rw [BitVec.and_assoc]
    exact h.noPort
  have hcheck : s.debugPcCheck s.pc = s := if_neg (by simp [State.pcEvent, h.noDebug])
  have hread : s.uncachedFetch (s.pc &&& 0x1FFFFFFF) =
      .ok (Memory.readBytes s.mem (s.pc &&& 0x1FFFFFFF) 4) s := by
    rw [State.uncachedFetch, State.busRead_of h.answers h.good hport, Res.ok_andThen, pickWord_doubleword _ haligned]
    rfl
  rw [State.fetch, hcheck, State.fetchWord, State.translate_fetch h.kernel (unmapped_of_kseg1 h.segment) h.aligned,
    Res.ok_andThen, h.segment]
  dsimp only
  rw [h.noScratch, if_neg Bool.false_ne_true, if_pos (by simp), hread, Res.ok_andThen]

/-- Bytes that decode to `i` make a word that does. -/
theorem decode_of_decodeBytes {bigEndian : Bool} {bs : List Byte} {i : Instr} (hlength : bs.length = 4)
    (h : decodeBytes bigEndian bs = .ok (i, [])) : decode (ofBytes bigEndian bs) = .instr i := by
  obtain ⟨b0, b1, b2, b3, rfl⟩ : ∃ b0 b1 b2 b3, bs = [b0, b1, b2, b3] := by
    match bs, hlength with
    | [b0, b1, b2, b3], _ => exact ⟨b0, b1, b2, b3, rfl⟩
  have hword : ofBytes bigEndian [b0, b1, b2, b3] = wordOfBytes bigEndian b0 b1 b2 b3 := by
    cases bigEndian <;> exact ofLowBytes_4 ..
  rw [hword]
  cases hd : decode (wordOfBytes bigEndian b0 b1 b2 b3) <;> simp [decodeBytes, hd] at h
  rw [h]

theorem execWord_instr {w : Word} {i : Instr} (h : decode w = .instr i) : execWord w s = exec i s := by
  rw [execWord, h]

/-! ### The end of a step (20 R180, 70 R621) -/

/-- `s` with other pending distances. -/
def State.withRecent (s : State) (recent : List Hazard) : State := { s with recent := recent }

section Pending

variable (s : State) (recent : List Hazard)

/-- The ICEport does not look at the pending distances. -/
theorem State.iceportWrite_withRecent (r : BitVec 2) (v : Word) :
    (s.withRecent recent).iceportWrite r v = (s.iceportWrite r v).withRecent recent := by
  unfold State.iceportWrite State.withRecent
  dsimp only
  repeat' split
  all_goals rfl

/-- Nor does memory. -/
theorem State.physWrite_withRecent (e : WriteEntry) :
    (s.withRecent recent).physWrite e = (s.physWrite e).withRecent recent := by
  have hreg : (s.withRecent recent).iceportReg e.addr = s.iceportReg e.addr := rfl
  unfold State.physWrite
  rw [hreg]
  cases s.iceportReg e.addr with
  | none => rfl
  | some r =>
    dsimp only
    rw [State.iceportWrite_withRecent]
    split
    · exact State.iceportWrite_withRecent ..
    · rfl

/-- Nor does the write of a buffered store, however it ends. -/
theorem State.busWrite_withRecent (e : WriteEntry) :
    (s.withRecent recent).busWrite e = (s.busWrite e).withRecent recent := by
  have hgood : (s.withRecent recent).nextWriteGood = s.nextWriteGood := rfl
  have hanswer : (s.withRecent recent).answerWrite = s.answerWrite.withRecent recent := by
    unfold State.answerWrite State.withRecent
    dsimp only
    split <;> rfl
  unfold State.busWrite State.endWrite
  rw [hgood, hanswer]
  split
  · exact State.physWrite_withRecent ..
  · rfl

theorem State.drain_withRecent (n : Nat) : (s.withRecent recent).drain n = (s.drain n).withRecent recent := by
  induction n generalizing s with
  | zero => rfl
  | succ n ih =>
    have hbuffer : (s.withRecent recent).wbuf = s.wbuf := rfl
    have hhangs : (s.withRecent recent).nextWriteHangs = s.nextWriteHangs := rfl
    unfold State.drain
    rw [hbuffer]
    cases s.wbuf with
    | nil => rfl
    | cons e es =>
      have hwrite := State.busWrite_withRecent { s with wbuf := es } recent e
      dsimp only
      rw [hhangs, show State.busWrite { s.withRecent recent with wbuf := es } e = _ from hwrite, ih]
      split <;> rfl

end Pending

/-- What a finished step shows of the state `t` its instruction left. -/
def State.ShowsInstruction (t u : State) : Prop :=
  u.gpr = t.gpr ∧ u.hi = t.hi ∧ u.lo = t.lo ∧ u.pc = t.pc ∧ u.npc = t.npc ∧ u.inSlot = t.inSlot ∧ u.taken = t.taken ∧
    u.llbit = t.llbit ∧ u.cp0 = t.cp0 ∧ u.tlb = t.tlb ∧ u.icache = t.icache ∧ u.dcache = t.dcache ∧
    u.mem = (t.drain t.env.choice.drain).mem

theorem State.finish_shows (t : State) : t.ShowsInstruction t.finish := by
  obtain ⟨wbuf, mem, uart, out, env, err, hdrain⟩ := t.drain_eq t.env.choice.drain
  unfold State.ShowsInstruction State.finish
  rw [hdrain]
  exact ⟨rfl, rfl, rfl, rfl, rfl, rfl, rfl, rfl, rfl, rfl, rfl, rfl, rfl⟩

/-- Ageing the distances shows nothing. -/
theorem State.ageHazards_finish_shows (t : State) : t.ShowsInstruction t.ageHazards.finish := by
  have hdrain := t.drain_withRecent t.ageHazards.recent t.env.choice.drain
  have hshows := t.ageHazards.finish_shows
  unfold State.ShowsInstruction at hshows ⊢
  rwa [show t.ageHazards.drain t.ageHazards.env.choice.drain = _ from hdrain] at hshows

/-- Settles O6: the fetch gives the word of the four bytes, and the end of the step shows what the instruction left. -/
theorem stepRunsDecodedInstruction : Obligations.StepRunsDecodedInstruction := by
  rintro s b i rfl hruns hfetch herr hbytes
  have hdecode := decode_of_decodeBytes (Memory.length_readBytes _ _ _) hbytes
  have hstep : step s = s.sample.beginStep.resolve (exec i s.sample.beginStep) := by
    have hone := (State.runOne_ok hfetch.fetch).trans (State.runFetched_clear herr)
    rw [execWord_instr hdecode] at hone
    exact hruns.boundary.trans hone
  generalize s.sample.beginStep = b at hstep
  refine ⟨hstep, fun t ht hcase => ?_, fun f hf => ?_, fun r hr => ?_⟩
  · rw [ht] at hstep
    cases hevent : t.out.event.isSome with
    | true => exact ⟨_, hstep.trans (State.resolve_event hevent), t.finish_shows⟩
    | false =>
      obtain ⟨hint, hevi, hdebug⟩ := hcase.resolve_left (Bool.eq_false_iff.mp hevent)
      exact ⟨_, hstep.trans (State.resolve_effect hevent hint hevi hdebug), t.ageHazards_finish_shows⟩
  · rw [hstep, hf]
    rfl
  · rw [hstep, hr]
    rfl

end Sys2Proof.Machine
end
